-- ==== Sys2Proof/Word.lean ====
section
/-!
DEFINITION. The plain types of the model: bytes, station numbers, counters, and four like things side by side (four trunks, four classes).
-/

namespace Sys2Proof

/-- One character on a line (04 R60, 08 R147). -/
abbrev Byte := BitVec 8

/-- A station or group number, two bytes (01 R1). -/
abbrev Num := BitVec 16

/-- A counter of 32 bits (10 R185). -/
abbrev Counter := BitVec 32

/-- Trunk 0 to trunk 3. -/
abbrev TrunkId := Fin 4

/-- An urgency class, 0 (lowest) to 3 (highest) (01 R5). -/
abbrev Cls := Fin 4

/-- Four like things, numbered 0 to 3: one per trunk, or one per class. -/
structure Quad (α : Type) where
  a0 : α
  a1 : α
  a2 : α
  a3 : α
  deriving DecidableEq, Repr

namespace Quad

variable {α : Type}

/-- The thing with number `i`. -/
def get (q : Quad α) (i : Fin 4) : α :=
  match i with
  | 0 => q.a0
  | 1 => q.a1
  | 2 => q.a2
  | 3 => q.a3

/-- `q` with the thing numbered `i` replaced. -/
def set (q : Quad α) (i : Fin 4) (v : α) : Quad α :=
  match i with
  | 0 => { q with a0 := v }
  | 1 => { q with a1 := v }
  | 2 => { q with a2 := v }
  | 3 => { q with a3 := v }

/-- Four times the same thing. -/
def all (v : α) : Quad α := ⟨v, v, v, v⟩

/-- The four things in ascending number. -/
def toList (q : Quad α) : List α := [q.a0, q.a1, q.a2, q.a3]

end Quad

/-- A port, where telegrams enter, or an egress, where they leave: trunk 0 to trunk 3, or HOST (03 R43, 07 R130). -/
inductive Port
  | trunk (t : TrunkId)
  | host
  deriving DecidableEq, Repr

end Sys2Proof
end

