-- ==== Sys2Proof/Machine/Bytes.lean ====
section
/-!
DEFINITION. Byte order (00 Conventions: high byte first) and the 16-bit check both lines use (04 R66).
-/

namespace Sys2Proof.Machine

/-- A two-byte field, high byte first. -/
def numBytes (n : BitVec 16) : List Byte := [n.extractLsb' 8 8, n.extractLsb' 0 8]

/-- The two-byte field with these bytes. -/
def numOfBytes (hi lo : Byte) : BitVec 16 := hi ++ lo

/-- A number as a one-byte field. -/
def byteOf (n : Nat) : Byte := BitVec.ofNat 8 n

/-- A number as a two-byte field. -/
def bytes16 (n : Nat) : List Byte := numBytes (BitVec.ofNat 16 n)

/-- A four-byte field, high byte first. -/
def bytes32 (c : BitVec 32) : List Byte :=
  [c.extractLsb' 24 8, c.extractLsb' 16 8, c.extractLsb' 8 8, c.extractLsb' 0 8]

/-- A number as a six-byte field, high byte first (08 R162, Uptime). -/
def bytes48 (n : Nat) : List Byte :=
  let v := BitVec.ofNat 48 n
  [v.extractLsb' 40 8, v.extractLsb' 32 8, v.extractLsb' 24 8, v.extractLsb' 16 8, v.extractLsb' 8 8, v.extractLsb' 0 8]

/-- The number a list of bytes spells, high byte first. -/
def natOfBytes (bs : List Byte) : Nat := bs.foldl (fun acc b => acc * 256 + b.toNat) 0

/-- One bit of a byte. -/
def bit (b : Bool) (i : Nat) : Byte := if b then (1#8 <<< i) else 0#8

/-- One bit through the check register: generator 1021 (hex), not reflected (04 R66). -/
def crcBit (c : BitVec 16) : BitVec 16 :=
  if c.msb then (c <<< 1) ^^^ 0x1021#16 else c <<< 1

/-- `n` bits through the check register. -/
def crcBits (n : Nat) (c : BitVec 16) : BitVec 16 :=
  match n with
  | 0 => c
  | k + 1 => crcBits k (crcBit c)

/-- One byte into the check register, most significant bit first. -/
def crcByte (c : BitVec 16) (b : Byte) : BitVec 16 :=
  crcBits 8 (c ^^^ (b.setWidth 16 <<< 8))

/-- The check over a list of bytes: initial value FFFF (hex), not inverted (04 R66). -/
def crc16 (bs : List Byte) : BitVec 16 := bs.foldl crcByte 0xFFFF#16

end Sys2Proof.Machine
end

