-- ==== Sys2Proof/Config.lean ====
section
/-!
DEFINITION. What the part fixes (its capacities) and what the manual leaves free.
-/

namespace Sys2Proof.Config

/-- Blocks in the store (03 R41). -/
def storeBlocks : Nat := 512

/-- Tickets in the store (03 R42). -/
def ticketCount : Nat := 160

/-- Directory entries (02 R13). -/
def directoryCapacity : Nat := 192

/-- PINNED and GROUP entries together (02 R13). -/
def pinnedCapacity : Nat := 64

/-- Longest data of a telegram, in bytes (01 R5). -/
def maxData : Nat := 240

/-- Longest body of a host message, in bytes (08 R148). -/
def maxBody : Nat := 256

/-- Replies that may wait (08 R151). -/
def replyRoom : Nat := 4

/-- Notices that may be pending (08 R157). -/
def noticeRoom : Nat := 32

/-- Largest host credit (08 R156). -/
def maxCredit : Nat := 16

/-- Missed transactions that make a station SILENT (02 R21). -/
def missLimit : Nat := 3

/-- Blocks above POOL_LOW at which the store recovers (03 R54). -/
def poolRecovery : Nat := 32

/-- Resends of one notice before the channel stalls (08 R160). -/
def resendLimit : Nat := 3

/-- Units of 100 µs in one ms: the resolution of the model's clock (log 3, DESIGN CHOICE). -/
def unitsPerMs : Nat := 10

/-- FREE VALUE (log 11, DESIGN CHOICE, safe): the turn mark of a DELIVER frame whose destination has lost its directory entry
between the pick and the frame's start; 05 R98 sends the frame and states no mark. Applied to `State.free`, a fresh
value each time. -/
opaque freeMark : Nat → Bool

/-- FREE VALUE (log 11, DESIGN CHOICE, safe): the resync flag of that same frame. -/
opaque freeResync : Nat → Bool

end Sys2Proof.Config
end

