-- ==== Sys2Proof/Syntax.lean ====
section
/-!
DEFINITION. The commands the exchange takes: one constructor per row of spec/opcode_table.json, with the row's operands.
-/

namespace Sys2Proof

/-- The first five characters of a frame, as they stand when the fifth arrives (04 R65, R72). -/
structure FrameHeader where
  lead : Byte
  station : Num
  control : Byte
  bodyLen : Byte
  deriving DecidableEq, Repr

/-- What every good station frame carries before its body: station number, turn mark, resync flag (04 R65).
The resync flag of a received frame is disregarded (04 R67). -/
structure StationHead where
  station : Num
  mark : Bool
  resync : Bool
  deriving DecidableEq, Repr

/-- The levels of the rate straps, pins HRATE1 and HRATE0 (00 pin summary). -/
structure Straps where
  hrate1 : Bool
  hrate0 : Bool
  deriving DecidableEq, Repr

/-- The commands. A host message carries its sequence and its body's bytes; its check is computed from them. -/
inductive Instr
  /-- POWER_ON (08 R165): the end of power-on, with the straps and the fault inputs (TnFLT) as they stand then. -/
  | powerOn (straps : Straps) (flt : Quad Bool)
  /-- RESET_LINE (08 R165): the release of RESET_N, with the straps and the fault inputs as they stand then. -/
  | resetLine (straps : Straps) (flt : Quad Bool)
  /-- LINE_FAULT (05 R85): TnFLT is asserted. -/
  | lineFault (t : TrunkId)
  /-- LINE_SOUND (05 R86): TnFLT is released. -/
  | lineSound (t : TrunkId)
  /-- HELLO (08 R162). -/
  | hello (seq : Byte) (body : List Byte)
  /-- SET (09 R168). -/
  | set (seq : Byte) (body : List Byte)
  /-- GET (09 R170). -/
  | get (seq : Byte) (body : List Byte)
  /-- TRUNK (09 R171). -/
  | trunk (seq : Byte) (body : List Byte)
  /-- PIN (09 R172). -/
  | pin (seq : Byte) (body : List Byte)
  /-- GROUP (09 R173). -/
  | group (seq : Byte) (body : List Byte)
  /-- FORGET (09 R174). -/
  | forget (seq : Byte) (body : List Byte)
  /-- LOOKUP (09 R176). -/
  | lookup (seq : Byte) (body : List Byte)
  /-- WALK (09 R177). -/
  | walk (seq : Byte) (body : List Byte)
  /-- SEND_HEADER (08 R153): the kind byte 1A of a message being collected; `length` is its length field. -/
  | sendHeader (length : BitVec 16)
  /-- SEND (09 R178). -/
  | send (seq : Byte) (body : List Byte)
  /-- STATS (09 R179). -/
  | stats (seq : Byte) (body : List Byte)
  /-- FLUSH (09 R181). -/
  | flush (seq : Byte) (body : List Byte)
  /-- RESTART (09 R182). -/
  | restart (seq : Byte) (body : List Byte)
  /-- UNKNOWN_KIND_REQUEST (08 R151): a valid message whose kind is no request or grant kind. -/
  | unknownKindRequest (kind : Byte) (seq : Byte) (body : List Byte)
  /-- CREDIT (08 R156). -/
  | credit (seq : Byte) (body : List Byte)
  /-- NOTED (08 R159). -/
  | noted (seq : Byte) (body : List Byte)
  /-- HOST_BAD_MESSAGE (08 R149): a message with a bad length or check. -/
  | hostBadMessage
  /-- HOST_MESSAGE_ABANDON (08 R149): a gap over 20 ms inside a message. -/
  | hostMessageAbandon
  /-- REPLY_END (08 R154): the reply being sent ends. -/
  | replyEnd
  /-- NOTICE_MESSAGE_END (08 R158): the notice message being sent ends. -/
  | noticeMessageEnd
  /-- TELEGRAM_END (07 R141): the TELEGRAM message being sent ends. -/
  | telegramEnd
  /-- NOTICE_TIMER_EXPIRY (08 R160). -/
  | noticeTimerExpiry
  /-- AGING_EXPIRY (02 R23). -/
  | agingExpiry
  /-- CALL_DUE (05 R91): a call falls due on trunk `t`. -/
  | callDue (t : TrunkId)
  /-- POLL_START (04 R69). -/
  | pollStart (t : TrunkId)
  /-- CALL_START (05 R91). -/
  | callStart (t : TrunkId)
  /-- DELIVER_START (05 R98). -/
  | deliverStart (t : TrunkId)
  /-- BCAST_START (05 R101). -/
  | bcastStart (t : TrunkId)
  /-- CONFIRM_START (04 R71). -/
  | confirmStart (t : TrunkId)
  /-- POLL_END (04 R79). -/
  | pollEnd (t : TrunkId)
  /-- CALL_END (04 R79). -/
  | callEnd (t : TrunkId)
  /-- DELIVER_END (04 R79). -/
  | deliverEnd (t : TrunkId)
  /-- BCAST_END (05 R101). -/
  | bcastEnd (t : TrunkId)
  /-- CONFIRM_END (05 R96). -/
  | confirmEnd (t : TrunkId)
  /-- FRAME_START (04 R79): a frame's first start bit after 3 idle character times. -/
  | frameStart (t : TrunkId)
  /-- DATA_HEADER (04 R72): the fifth character of the frame in reception. -/
  | dataHeader (t : TrunkId) (h : FrameHeader)
  /-- DATA_FRAME (05 R95): a good DATA frame ends. -/
  | dataFrame (t : TrunkId) (h : StationHead) (dest : Num) (cls : Byte) (data : List Byte)
  /-- NIL_FRAME (05 R94): a good NIL frame ends. -/
  | nilFrame (t : TrunkId) (h : StationHead)
  /-- ACK_FRAME (04 R76): a good ACK frame ends. -/
  | ackFrame (t : TrunkId) (h : StationHead)
  /-- BUSY_FRAME (05 R100): a good BUSY frame ends. -/
  | busyFrame (t : TrunkId) (h : StationHead)
  /-- JOIN_FRAME (05 R97): a good JOIN frame ends. -/
  | joinFrame (t : TrunkId) (h : StationHead) (profile : Byte)
  /-- FAILED_FRAME (04 R80): a complete frame that fails its tests ends. -/
  | failedFrame (t : TrunkId)
  /-- TRUNCATED_FRAME (04 R64): a frame ends by idle before its length is complete. -/
  | truncatedFrame (t : TrunkId)
  /-- FRAGMENT_END (04 R63). -/
  | fragmentEnd (t : TrunkId)
  /-- ANSWER_TIMEOUT (04 R81). -/
  | answerTimeout (t : TrunkId)
  /-- CALL_WINDOW_EXPIRY (04 R81). -/
  | callWindowExpiry (t : TrunkId)
  /-- SETTLE_GAP_END (05 R102). -/
  | settleGapEnd (t : TrunkId)
  /-- SPREAD_GAP_END (05 R101). -/
  | spreadGapEnd (t : TrunkId)
  /-- QUIET_PERIOD_END (05 R104). -/
  | quietPeriodEnd (t : TrunkId)
  /-- RESET_ASSERTED (08 R147): RESET_N is asserted. -/
  | resetAsserted
  deriving DecidableEq, Repr

end Sys2Proof
end

