-- ==== Sys2Proof/Machine/State.lean ====
section
/-!
DEFINITION. Everything the exchange keeps, as plain data, and its values after reset.
-/

namespace Sys2Proof.Machine

/-! ### Names -/

/-- A trunk's mode (05 R84). -/
inductive Mode
  | closed
  | survey
  | carry
  deriving DecidableEq, Repr

/-- A trunk's line state (05 R85). -/
inductive LineState
  | sound
  | faulted
  deriving DecidableEq, Repr

/-- A controller's activity state (05 R87). -/
inductive Activity
  | idle
  | polling
  | calling
  | delivering
  | spreading
  | confirming
  | settling
  | quiet
  deriving DecidableEq, Repr

/-- Whether a station is answering (02 R12). -/
inductive StationState
  | active
  | silent
  deriving DecidableEq, Repr

/-- Why an entry is overdue or gone (02 R12, 10 R191). -/
inductive Cause
  | aged
  | closed
  | forgotten
  deriving DecidableEq, Repr

/-- Refusal reasons (01 R9). -/
inductive Reason
  | pool
  | tickets
  | portLimit
  | queueFull
  | noRoute
  | lineDown
  | local_
  | self_
  | badHeader
  | notJoined
  | surveyOnly
  | directoryFull
  | pinnedElsewhere
  | learningOff
  deriving DecidableEq, Repr

/-- Undelivered reasons (01 R11). -/
inductive Undelivered
  | expired
  | noStation
  | noRoute
  | silent
  | retries
  | rerouteFull
  deriving DecidableEq, Repr

/-- Error codes of a FAILED reply (08 R151), REFUSED with its reason. -/
inductive Failure
  | unknownKind
  | badBody
  | badParam
  | outOfRange
  | state
  | notFound
  | conflict
  | full
  | busy
  | refused (r : Reason)
  deriving DecidableEq, Repr

/-- Result codes of the directory edits (09 section 9.1). -/
inductive EditResult
  | created
  | converted
  | repinned
  | replaced
  | removed
  | deferred
  deriving DecidableEq, Repr

/-- Reasons of a STARTED notice (10 R191). -/
inductive StartReason
  | power
  | resetLine
  | restart
  deriving DecidableEq, Repr

/-! ### The directory (02 R12) -/

/-- A group's member set. -/
structure Members where
  trunks : Quad Bool
  host : Bool
  deriving DecidableEq, Repr

/-- The two station kinds, with the fields that differ: a PINNED entry always has a home, a DYNAMIC one may be homeless. -/
inductive StationKind
  | dynamic (home : Option TrunkId) (seen : Bool) (overdue : Option Cause)
  | pinned (home : TrunkId) (cap : Option Nat) (surveyPass : Bool)
  deriving DecidableEq, Repr

/-- A station entry's fields. -/
structure Station where
  kind : StationKind
  state : StationState
  missed : Nat
  held : Nat
  profile : Byte
  inMark : Option Bool
  outMark : Bool
  resync : Bool
  accepted : BitVec 16
  delivered : BitVec 16
  deriving DecidableEq, Repr

/-- A station entry or a group entry. -/
inductive EntryBody
  | station (st : Station)
  | group (members : Members)
  deriving DecidableEq, Repr

/-- A directory entry. -/
structure DirEntry where
  num : Num
  body : EntryBody
  deriving DecidableEq, Repr

/-- The directory's counters (10 R189). -/
structure DirCounters where
  learned : Counter
  moved : Counter
  aged : Counter
  conflicts : Counter
  fullRefusals : Counter
  deriving DecidableEq, Repr

/-- A timer stamped with the timebase: its start and the length in force, in ms (02 R22, 08 R160). -/
structure MsTimer where
  start : Nat
  length : Nat
  deriving DecidableEq, Repr

/-! ### The store (03 R42) -/

/-- A FILLING or STORED ticket (03 R42): `storedAt` is absent while it is FILLING, `dest` and `cls` until their bytes have arrived,
and `data` holds the bytes that have (R48; log 14). -/
structure Ticket where
  num : Nat
  source : Num
  dest : Option Num
  cls : Option Byte
  port : Port
  length : Nat
  blocks : Nat
  data : List Byte
  refs : Nat
  storedAt : Option Nat
  deriving DecidableEq, Repr

/-- What the device reads of a STORED ticket: its destination, class, data and stored time (03 R50, R51). -/
structure TicketBody where
  dest : Num
  cls : Cls
  data : List Byte
  storedAt : Nat
  deriving DecidableEq, Repr

/-- One number for each port (03 R43). -/
structure Occupancy where
  trunks : Quad Nat
  host : Nat
  deriving DecidableEq, Repr

/-- The telegram store; the FREE tickets are the numbers 0 to 159 not listed, the list rising by number. -/
structure Store where
  tickets : List Ticket
  freeBlocks : Nat
  occ : Occupancy
  low : Bool
  poolFails : Counter
  ticketFails : Counter
  portLimitFails : Counter
  leastFree : Nat
  peakTickets : Nat
  deriving DecidableEq, Repr

/-- What a port holds of the reservation it asked for: the ticket granted, or the failure (03 R44, R45). -/
inductive Held
  | granted (ticket : Nat)
  | failed (r : Reason)
  deriving DecidableEq, Repr

/-! ### Queues (07 R130, R131, R133) -/

/-- How a trunk sends an entry. -/
inductive Form
  | deliver
  | bcast
  deriving DecidableEq, Repr

/-- A queue entry; its class is the FIFO it stands in. -/
structure QEntry where
  ticket : Nat
  form : Option Form
  attempts : Nat
  flushMark : Bool
  started : Bool
  deriving DecidableEq, Repr

/-- A trunk's egress: a FIFO (head first) and a balance for each class. -/
structure TrunkEgress where
  fifo : Quad (List QEntry)
  balance : Quad Int
  deriving DecidableEq, Repr

/-! ### Trunk frames (04 R65) -/

/-- Frame kinds. -/
inductive FrameKind
  | poll
  | call
  | deliver
  | bcast
  | receipt
  | refuse
  | data
  | nil
  | ack
  | busy
  | join
  deriving DecidableEq, Repr

/-- A frame's contents. -/
structure Frame where
  station : Num
  kind : FrameKind
  mark : Bool
  resync : Bool
  body : List Byte
  deriving DecidableEq, Repr

/-- The frame in reception on a trunk, by what its start made it (04 R79, R81, R82). -/
inductive Reception
  | none
  | answer
  | late
  | stray
  deriving DecidableEq, Repr

/-! ### The trunk controllers (05 R83) -/

/-- A transaction's kind, the station it addresses, the entry it serves with its attempts at the start. -/
inductive TxnKind
  | poll (station : Num)
  | call
  | deliver (dest : Num) (cls : Cls) (ticket : Nat) (attempts : Nat)
  | bcast (cls : Cls) (ticket : Nat)
  deriving DecidableEq, Repr

/-- Where the transaction's present frame stands: waiting for the line, being sent, ended. -/
inductive FramePhase
  | waiting
  | sending
  | ended
  deriving DecidableEq, Repr

/-- A RECEIPT (`refusal = none`) or REFUSE to be sent in CONFIRMING (04 R71). -/
structure Confirm where
  station : Num
  mark : Bool
  refusal : Option Reason
  deriving DecidableEq, Repr

/-- The outstanding transaction. -/
structure Txn where
  kind : TxnKind
  phase : FramePhase
  mark : Bool
  held : Option Held
  confirm : Option Confirm
  deriving DecidableEq, Repr

/-- A trunk's counters, in the order of 10 R186 and R187. -/
structure TrunkCounters where
  polls : Counter
  dataIn : Counter
  nilIn : Counter
  calls : Counter
  callsGarbled : Counter
  joins : Counter
  delivers : Counter
  acks : Counter
  busyIn : Counter
  timeouts : Counter
  badFrames : Counter
  late : Counter
  stray : Counter
  repeats : Counter
  refusalsSent : Counter
  withheld : Counter
  spreads : Counter
  undelivered : Counter
  expired : Counter
  rerouted : Counter
  flushed : Counter
  deriving DecidableEq, Repr

/-- All that one trunk keeps. -/
structure Trunk where
  mode : Mode
  line : LineState
  activity : Activity
  /-- The station last polled in the cycle; `none` is start. -/
  pointer : Option Num
  cycle : Fin 8
  /-- When the last CALL frame started (ms); `none` is never. -/
  lastCall : Option Nat
  callMade : Bool
  /-- Slots used of an open burst; `none` is closed. -/
  burst : Option Nat
  txn : Option Txn
  /-- The running answer timer, call window, settle gap, spread gap or quiet period: the clock reading at which it ends. -/
  timer : Option Nat
  /-- The frame on TnTX; TnDE is asserted while there is one. -/
  tx : Option Frame
  rx : Reception
  /-- The BIT_RATE taken when the trunk left CLOSED (04 R60). -/
  bitRate : Nat
  egress : TrunkEgress
  counters : TrunkCounters
  deriving DecidableEq, Repr

/-! ### Parameters (09 R167) -/

/-- A trunk's parameters. -/
structure TrunkParams where
  bitRate : Nat
  replyTimeout : Nat
  settleGap : Nat
  callWindow : Nat
  callSpacing : Nat
  learn : Nat
  retryLimit : Nat
  deliveryBurst : Nat
  weight : Quad Nat
  express : Nat
  queueLimit : Nat
  portCap : Nat
  deriving DecidableEq, Repr

/-- One value for each notice kind. -/
structure NoticeEnable where
  started : Nat
  joined : Nat
  gone : Nat
  station : Nat
  conflict : Nat
  directoryFull : Nat
  undelivered : Nat
  line : Nat
  pool : Nat
  deriving DecidableEq, Repr

/-- The parameter table: 83 values. -/
structure Params where
  trunks : Quad TrunkParams
  hostQueueLimit : Nat
  hostPortCap : Nat
  agingPeriod : Nat
  stationCap : Nat
  unknownPolicy : Nat
  localTurn : Nat
  broadcastToHost : Nat
  poolLow : Nat
  lifetime : Quad Nat
  noticeWindow : Nat
  noticeTimeout : Nat
  enable : NoticeEnable
  deriving DecidableEq, Repr

/-! ### The host link (chapter 8) -/

/-- A message's contents (08 R148). -/
structure Message where
  kind : Byte
  seq : Byte
  body : List Byte
  deriving DecidableEq, Repr

/-- A notice's kind and fields (10 R191). -/
inductive NoticeFields
  | started (reason : StartReason)
  | joined (station : Num) (trunk : TrunkId) (previous : Option TrunkId) (profile : Byte)
  | gone (station : Num) (cause : Cause)
  | station (station : Num) (state : StationState)
  | conflict (station : Num) (trunk : TrunkId) (pinnedHome : TrunkId)
  | directoryFull (station : Num) (trunk : TrunkId)
  | undelivered (ticket : Nat) (source : Num) (dest : Num) (cls : Cls) (reason : Undelivered) (egress : Port)
  | line (trunk : TrunkId) (state : LineState)
  | pool (low : Bool) (freeBlocks : Nat)
  deriving DecidableEq, Repr

/-- A queued notice (08 R157). -/
structure Notice where
  seq : Byte
  lost : Byte
  fields : NoticeFields
  deriving DecidableEq, Repr

/-- A notice sent and not yet acknowledged (08 R158). -/
structure Unacked where
  notice : Notice
  resends : Nat
  deriving DecidableEq, Repr

/-- Whether a resend of the oldest unacknowledged notice is due, and why (08 R160, R161). -/
inductive ResendDue
  | no
  | afterTimeout
  | afterStall
  deriving DecidableEq, Repr

/-- The host link's transmitter (08 R154): free, or sending. A TELEGRAM knows the class its entry stands at the head of,
unless a RESTART has removed the entry. -/
inductive HostTx
  | free
  | reply (m : Message)
  | notice (m : Message)
  | telegram (m : Message) (entry : Option Cls)
  deriving DecidableEq, Repr

/-- The host link's receiver (08 R149). Between commands it is hunting, or collecting a SEND whose kind byte has arrived;
the length is read inside a command. -/
inductive HostRx
  | hunting
  | readingLength
  | collecting (bodyLen : Nat) (held : Option Held)
  deriving DecidableEq, Repr

/-- The reply cache's record (08 R152); `reply = none` while a RESTART has not completed. -/
structure CacheRecord where
  seq : Byte
  check : BitVec 16
  reply : Option Message
  deriving DecidableEq, Repr

/-- The figures of a RESTART's DONE body (09 R182). -/
structure RestartFigures where
  tickets : Nat
  entries : Nat
  dynamics : Nat
  notices : Nat
  deriving DecidableEq, Repr

/-- A RESTART in progress: its figures, and the controllers whose report is awaited (08 R164). -/
structure RestartProgress where
  figures : RestartFigures
  waiting : Quad Bool
  deriving DecidableEq, Repr

/-- The host link's counters, in the order of 10 R188. -/
structure LinkCounters where
  framesIn : Counter
  framesOut : Counter
  badFramesIn : Counter
  replays : Counter
  busyReplies : Counter
  noticesSent : Counter
  noticeResends : Counter
  noticesLost : Counter
  notedIgnored : Counter
  telegramsOut : Counter
  telegramsIn : Counter
  deriving DecidableEq, Repr

/-- All that the host link keeps. -/
structure HostLink where
  rx : HostRx
  tx : HostTx
  replies : List Message
  cache : Option CacheRecord
  restart : Option RestartProgress
  credit : Nat
  telegramSeq : Byte
  pendingNotices : List Notice
  noticeSeq : Byte
  lost : Byte
  unacked : List Unacked
  noticeTimer : Option MsTimer
  resendDue : ResendDue
  stalled : Bool
  counters : LinkCounters
  deriving DecidableEq, Repr

/-! ### The machine -/

/-- The exchange, with the commands waiting for it. -/
structure State where
  /-- The commands waiting, first in first out. -/
  pending : List Instr
  /-- Time in units of 100 µs; the timebase of 01 R7 is `clock / 10` (log 3). -/
  clock : Nat
  /-- RESET_N is asserted (08 R147). -/
  inReset : Bool
  /-- The rate straps as last read (08 R147). -/
  straps : Straps
  /-- The levels of T0FLT to T3FLT (00 pin summary). -/
  fltPins : Quad Bool
  params : Params
  /-- The directory, rising by number. -/
  dir : List DirEntry
  dirCounters : DirCounters
  aging : MsTimer
  store : Store
  trunks : Quad Trunk
  hostEgress : Quad (List QEntry)
  link : HostLink
  /-- The model's own: how many free values have been used (log 11). -/
  free : Nat
  /-- The model's own: the IDLE controllers that a wake event of this step has reached (log 9). -/
  wakes : Quad Bool
  deriving DecidableEq, Repr

/-- Why the exchange stops with a fault. -/
inductive Fault
  /-- Raised by no meaning: every command completes in every state (log 29). A closed type needs a name for what would stop
  the machine; safe, since nothing answers it. -/
  | stopped
  deriving DecidableEq, Repr

/-- Why a command has no meaning. -/
inductive Refusal
  /-- A row that has no meaning in the model yet; raised by exec's refused arms alone, of which there is none. Safe. -/
  | notModelled (mnemonic : String)
  deriving DecidableEq, Repr

/-! ### Reset values -/

/-- A trunk's parameters at their defaults (09 R167). -/
def TrunkParams.reset : TrunkParams where
  bitRate := 115200
  replyTimeout := 30
  settleGap := 10
  callWindow := 40
  callSpacing := 250
  learn := 1
  retryLimit := 3
  deliveryBurst := 2
  weight := ⟨1, 2, 3, 5⟩
  express := 0
  queueLimit := 48
  portCap := 192

/-- The parameter table at its defaults (09 R167). -/
def Params.reset : Params where
  trunks := Quad.all TrunkParams.reset
  hostQueueLimit := 48
  hostPortCap := 128
  agingPeriod := 60
  stationCap := 24
  unknownPolicy := 0
  localTurn := 1
  broadcastToHost := 1
  poolLow := 64
  lifetime := Quad.all 0
  noticeWindow := 4
  noticeTimeout := 250
  enable := ⟨1, 1, 1, 1, 1, 1, 1, 1, 1⟩

/-- A trunk's counters at 0 (10 R185). -/
def TrunkCounters.zero : TrunkCounters :=
  ⟨0, 0, 0, 0, 0, 0, 0, 0, 0, 0, 0, 0, 0, 0, 0, 0, 0, 0, 0, 0, 0⟩

/-- The host link's counters at 0. -/
def LinkCounters.zero : LinkCounters := ⟨0, 0, 0, 0, 0, 0, 0, 0, 0, 0, 0⟩

/-- The directory's counters at 0. -/
def DirCounters.zero : DirCounters := ⟨0, 0, 0, 0, 0⟩

/-- An egress with no entry (07 R145). -/
def TrunkEgress.empty : TrunkEgress := ⟨Quad.all [], Quad.all 0⟩

/-- A trunk after reset (05 R108), its line state as given. -/
def Trunk.reset (line : LineState) : Trunk where
  mode := .closed
  line := line
  activity := .idle
  pointer := none
  cycle := 0
  lastCall := none
  callMade := false
  burst := none
  txn := none
  timer := none
  tx := none
  rx := .none
  bitRate := 115200
  egress := .empty
  counters := .zero

/-- The store after reset (03 R58). -/
def Store.reset : Store where
  tickets := []
  freeBlocks := Config.storeBlocks
  occ := ⟨Quad.all 0, 0⟩
  low := false
  poolFails := 0
  ticketFails := 0
  portLimitFails := 0
  leastFree := Config.storeBlocks
  peakTickets := 0

/-- The host link after reset (08 R165). -/
def HostLink.reset : HostLink where
  rx := .hunting
  tx := .free
  replies := []
  cache := none
  restart := none
  credit := 0
  telegramSeq := 0
  pendingNotices := []
  noticeSeq := 0
  lost := 0
  unacked := []
  noticeTimer := none
  resendDue := .no
  stalled := false
  counters := .zero

/-- The exchange at the end of power-on, before STARTED is raised (02 R39, 03 R58, 05 R108, 07 R145, 08 R165, 09 R167,
10 R185; log 6). The straps and fault inputs are a DESIGN CHOICE (log 7, unsafe). -/
def State.reset : State where
  pending := []
  clock := 0
  inReset := false
  straps := ⟨false, false⟩
  fltPins := Quad.all false
  params := .reset
  dir := []
  dirCounters := .zero
  aging := ⟨0, 60000⟩
  store := .reset
  trunks := Quad.all (Trunk.reset .sound)
  hostEgress := Quad.all []
  link := .reset
  free := 0
  wakes := Quad.all false

end Sys2Proof.Machine
end

