-- ==== Sys2Proof/Machine/Flags.lean ====
section
/-!
DEFINITION. The codes by which the lines name things, and the flag bytes computed from state: the control byte of a frame and the
17-byte record of a directory entry.
-/

namespace Sys2Proof.Machine

/-- Refusal reason codes (01 R9). -/
def Reason.code : Reason → Byte
  | .pool => 0x01
  | .tickets => 0x02
  | .portLimit => 0x03
  | .queueFull => 0x04
  | .noRoute => 0x05
  | .lineDown => 0x06
  | .local_ => 0x07
  | .self_ => 0x08
  | .badHeader => 0x09
  | .notJoined => 0x0A
  | .surveyOnly => 0x0B
  | .directoryFull => 0x0C
  | .pinnedElsewhere => 0x0D
  | .learningOff => 0x0E

/-- Undelivered reason codes (10 R191). -/
def Undelivered.code : Undelivered → Byte
  | .expired => 0x01
  | .noStation => 0x02
  | .noRoute => 0x03
  | .silent => 0x04
  | .retries => 0x05
  | .rerouteFull => 0x06

/-- Error codes of FAILED (08 R151). -/
def Failure.code : Failure → Byte
  | .unknownKind => 0x01
  | .badBody => 0x02
  | .badParam => 0x03
  | .outOfRange => 0x04
  | .state => 0x05
  | .notFound => 0x06
  | .conflict => 0x07
  | .full => 0x08
  | .busy => 0x09
  | .refused _ => 0x0A

/-- The detail byte of FAILED: the refusal reason for REFUSED, else 00 (08 R151). -/
def Failure.detail : Failure → Byte
  | .refused r => r.code
  | .unknownKind | .badBody | .badParam | .outOfRange | .state | .notFound | .conflict | .full | .busy => 0x00

/-- Result codes of the directory edits (09 section 9.1). -/
def EditResult.code : EditResult → Byte
  | .created => 0x01
  | .converted => 0x02
  | .repinned => 0x03
  | .replaced => 0x04
  | .removed => 0x05
  | .deferred => 0x06

/-- Cause codes (09 R175 Overdue, 10 R191 GONE). -/
def Cause.code : Cause → Byte
  | .aged => 0x01
  | .closed => 0x02
  | .forgotten => 0x03

/-- State codes (09 R175, 10 R191). -/
def StationState.code : StationState → Byte
  | .active => 0x00
  | .silent => 0x01

/-- STARTED reasons (10 R191). -/
def StartReason.code : StartReason → Byte
  | .power => 0x00
  | .resetLine => 0x01
  | .restart => 0x02

/-- LINE states (10 R191). -/
def LineState.code : LineState → Byte
  | .sound => 0x00
  | .faulted => 0x01

/-- Mode codes (09 section 9.1). -/
def Mode.code : Mode → Byte
  | .closed => 0x00
  | .survey => 0x01
  | .carry => 0x02

/-- A trunk's code (09 section 9.1). -/
def trunkCode (t : TrunkId) : Byte := byteOf t.val

/-- A trunk's code, FF (hex) when absent (09 R175, 10 R191). -/
def homeCode : Option TrunkId → Byte
  | some t => trunkCode t
  | none => 0xFF

/-- A port's or egress's code: 04 (hex) for HOST (09 section 9.1, 08 R155). -/
def portCode : Port → Byte
  | .trunk t => trunkCode t
  | .host => 0x04

/-- A member set's byte (09 section 9.1). -/
def Members.code (m : Members) : Byte :=
  bit m.trunks.a0 0 ||| bit m.trunks.a1 1 ||| bit m.trunks.a2 2 ||| bit m.trunks.a3 3 ||| bit m.host 4

/-- Kind codes of trunk frames (04 R65). -/
def FrameKind.code : FrameKind → Byte
  | .poll => 0x1
  | .call => 0x2
  | .deliver => 0x3
  | .bcast => 0x4
  | .receipt => 0x5
  | .refuse => 0x6
  | .data => 0x9
  | .nil => 0xA
  | .ack => 0xB
  | .busy => 0xC
  | .join => 0xD

/-- The control byte: bits 7 and 6 zero, resync flag, turn mark, kind (04 R65). -/
def controlByte (resync mark : Bool) (kind : FrameKind) : Byte :=
  bit resync 5 ||| bit mark 4 ||| kind.code

/-- The kinds of notice (10 R190). -/
inductive NoticeKind
  | started
  | joined
  | gone
  | station
  | conflict
  | directoryFull
  | undelivered
  | line
  | pool
  deriving DecidableEq, Repr

/-- Notice kind codes (10 R190). -/
def NoticeKind.code : NoticeKind → Byte
  | .started => 0x01
  | .joined => 0x02
  | .gone => 0x03
  | .station => 0x04
  | .conflict => 0x05
  | .directoryFull => 0x06
  | .undelivered => 0x07
  | .line => 0x08
  | .pool => 0x09

/-- The kind of a notice (10 R191). -/
def NoticeFields.kind : NoticeFields → NoticeKind
  | .started _ => .started
  | .joined _ _ _ _ => .joined
  | .gone _ _ => .gone
  | .station _ _ => .station
  | .conflict _ _ _ => .conflict
  | .directoryFull _ _ => .directoryFull
  | .undelivered _ _ _ _ _ _ => .undelivered
  | .line _ _ => .line
  | .pool _ _ => .pool

/-- A notice's fields as bytes (10 R191). -/
def NoticeFields.bytes : NoticeFields → List Byte
  | .started r => [r.code]
  | .joined s t p profile => numBytes s ++ [trunkCode t, homeCode p, profile]
  | .gone s c => numBytes s ++ [c.code]
  | .station s st => numBytes s ++ [st.code]
  | .conflict s t h => numBytes s ++ [trunkCode t, trunkCode h]
  | .directoryFull s t => numBytes s ++ [trunkCode t]
  | .undelivered n src dst c r e =>
    [byteOf n] ++ numBytes src ++ numBytes dst ++ [byteOf c.val, r.code, portCode e]
  | .line t st => [trunkCode t, st.code]
  | .pool low free => [if low then 0x00 else 0x01] ++ bytes16 free

/-- The Kind byte of a record (09 R175). -/
def StationKind.code : StationKind → Byte
  | .dynamic _ _ _ => 0x00
  | .pinned _ _ _ => 0x01

/-- The home trunk, absent from a homeless entry. -/
def StationKind.home : StationKind → Option TrunkId
  | .dynamic home _ _ => home
  | .pinned home _ _ => some home

/-- A station's home trunk. -/
def Station.home (st : Station) : Option TrunkId := st.kind.home

/-- The seen mark, absent from a PINNED entry. -/
def StationKind.seen : StationKind → Bool
  | .dynamic _ seen _ => seen
  | .pinned _ _ _ => false

/-- The overdue cause, absent from a PINNED entry. -/
def StationKind.overdue : StationKind → Option Cause
  | .dynamic _ _ o => o
  | .pinned _ _ _ => none

/-- The entry's own cap, absent from a DYNAMIC entry. -/
def StationKind.cap : StationKind → Option Nat
  | .dynamic _ _ _ => none
  | .pinned _ cap _ => cap

/-- The survey pass, absent from a DYNAMIC entry. -/
def StationKind.surveyPass : StationKind → Bool
  | .dynamic _ _ _ => false
  | .pinned _ _ pass => pass

/-- Marks and flags of a record: bit 0 seen mark, 1 resync pending, 2 survey pass, 3 outbound mark, 4 inbound mark present,
5 inbound mark value (09 R175). -/
def Station.flags (st : Station) : Byte :=
  bit st.kind.seen 0 ||| bit st.resync 1 ||| bit st.kind.surveyPass 2 ||| bit st.outMark 3 |||
    bit st.inMark.isSome 4 ||| bit (st.inMark.getD false) 5

/-- The 17-byte record of an entry (09 R175). -/
def DirEntry.record (e : DirEntry) : List Byte :=
  match e.body with
  | .group m => numBytes e.num ++ [0x02, 0x00, m.code, 0, 0, 0, 0, 0, 0, 0, 0, 0, 0, 0, 0]
  | .station st =>
    numBytes e.num ++
      [st.kind.code, homeCode st.home, 0x00, st.state.code, st.flags,
        (match st.kind.overdue with
          | some c => c.code
          | none => 0x00),
        byteOf st.missed] ++
      bytes16 st.held ++ [byteOf (st.kind.cap.getD 0), st.profile] ++ numBytes st.accepted ++ numBytes st.delivered

end Sys2Proof.Machine
end

