-- ==== Sys2Proof/Machine/Frames.lean ====
section
/-!
DEFINITION. The characters of the frames and messages: layouts and checks (04 R65 to R71, 08 R148, R155, R157).
-/

namespace Sys2Proof.Machine

/-- The characters of a trunk frame: lead, station number, control, body length, body, check (04 R65, R66). -/
def Frame.chars (f : Frame) : List Byte :=
  let covered := numBytes f.station ++ [controlByte f.resync f.mark f.kind, byteOf f.body.length] ++ f.body
  0xC3 :: covered ++ numBytes (crc16 covered)

/-- The check of a host message: over kind, sequence and body (08 R148). -/
def messageCheck (kind seq : Byte) (body : List Byte) : BitVec 16 := crc16 (kind :: seq :: body)

/-- The characters of a host message: lead, length, kind, sequence, body, check (08 R148). -/
def Message.chars (m : Message) : List Byte :=
  0xA5 :: bytes16 (m.body.length + 2) ++ m.kind :: m.seq :: m.body ++ numBytes (messageCheck m.kind m.seq m.body)

/-- A POLL frame (04 R68, R69). -/
def pollFrame (station : Num) : Frame := ⟨station, .poll, false, false, []⟩

/-- A CALL frame: station number 0000 (04 R69). -/
def callFrame : Frame := ⟨0, .call, false, false, []⟩

/-- The body of a DELIVER or BCAST: source, class, data (04 R70). -/
def telegramBody (source : Num) (b : TicketBody) : List Byte :=
  numBytes source ++ byteOf b.cls.val :: b.data

/-- A DELIVER frame (04 R68, R70). -/
def deliverFrame (source : Num) (b : TicketBody) (mark resync : Bool) : Frame :=
  ⟨b.dest, .deliver, mark, resync, telegramBody source b⟩

/-- A BCAST frame: the telegram's own destination number (04 R68, R70). -/
def bcastFrame (source : Num) (b : TicketBody) : Frame :=
  ⟨b.dest, .bcast, false, false, telegramBody source b⟩

/-- The RECEIPT or REFUSE frame of a confirmation (04 R68, R71). -/
def Confirm.frame (c : Confirm) : Frame :=
  match c.refusal with
  | none => ⟨c.station, .receipt, c.mark, false, []⟩
  | some r => ⟨c.station, .refuse, c.mark, false, [r.code]⟩

/-- A DONE reply (08 R148, R151). -/
def doneReply (seq : Byte) (body : List Byte) : Message := ⟨0x41, seq, body⟩

/-- A FAILED reply: error code and detail (08 R151). -/
def failedReply (seq : Byte) (e : Failure) : Message := ⟨0x42, seq, [e.code, e.detail]⟩

/-- A NOTICE message: lost count, kind, fields (08 R157). -/
def Notice.message (n : Notice) : Message :=
  ⟨0x61, n.seq, n.lost :: n.fields.kind.code :: n.fields.bytes⟩

/-- A TELEGRAM message (08 R155). -/
def telegramMessage (seq : Byte) (k : Ticket) (b : TicketBody) : Message :=
  ⟨0x71, seq, [byteOf k.num] ++ numBytes k.source ++ numBytes b.dest ++ [byteOf b.cls.val, portCode k.port] ++ b.data⟩

end Sys2Proof.Machine
end

