-- ==== Sys2Proof/Machine/Ops.lean ====
section
/-!
DEFINITION. The named operations over the state: one replacement for each part of it, time, counters, the raising of a notice, the
waking of a controller.
-/

namespace Sys2Proof.Machine

/-! ### Replacing one part -/

namespace State

def setPending (s : State) (v : List Instr) : State := { s with pending := v }
def setClock (s : State) (v : Nat) : State := { s with clock := v }
def setInReset (s : State) (v : Bool) : State := { s with inReset := v }
def setFltPins (s : State) (v : Quad Bool) : State := { s with fltPins := v }
def setParams (s : State) (v : Params) : State := { s with params := v }
def setDir (s : State) (v : List DirEntry) : State := { s with dir := v }
def setDirCounters (s : State) (v : DirCounters) : State := { s with dirCounters := v }
def setAging (s : State) (v : MsTimer) : State := { s with aging := v }
def setStore (s : State) (v : Store) : State := { s with store := v }
def setTrunks (s : State) (v : Quad Trunk) : State := { s with trunks := v }
def setHostEgress (s : State) (v : Quad (List QEntry)) : State := { s with hostEgress := v }
def setLink (s : State) (v : HostLink) : State := { s with link := v }
def setFree (s : State) (v : Nat) : State := { s with free := v }
def setWakes (s : State) (v : Quad Bool) : State := { s with wakes := v }

/-- Trunk `t`'s record. -/
def trunk (s : State) (t : TrunkId) : Trunk := s.trunks.get t

/-- Trunk `t`'s record changed by `f`. -/
def modTrunk (s : State) (t : TrunkId) (f : Trunk → Trunk) : State :=
  s.setTrunks (s.trunks.set t (f (s.trunk t)))

/-- The host link's record changed by `f`. -/
def modLink (s : State) (f : HostLink → HostLink) : State := s.setLink (f s.link)

/-- Trunk `t`'s parameters. -/
def tparams (s : State) (t : TrunkId) : TrunkParams := s.params.trunks.get t

end State

/-! ### Counters (10 R185) -/

/-- A counter raised by 1; it stays at its largest value. -/
def countUp (c : Counter) : Counter := if c = BitVec.allOnes 32 then c else c + 1

/-- A counter raised by 1, `n` times. -/
def countUpBy (c : Counter) (n : Nat) : Counter :=
  match n with
  | 0 => c
  | k + 1 => countUpBy (countUp c) k

/-- A 16-bit count raised by 1, saturating (02 R12). -/
def up16 (c : BitVec 16) : BitVec 16 := if c = BitVec.allOnes 16 then c else c + 1

/-- The lost count raised by 1, saturating at 255 (08 R157). -/
def upLost (c : Byte) : Byte := if c = BitVec.allOnes 8 then c else c + 1

/-- Trunk `t`'s counters changed by `f`. -/
def countTrunk (t : TrunkId) (f : TrunkCounters → TrunkCounters) (s : State) : State :=
  s.modTrunk t fun k => { k with counters := f k.counters }

/-- The host link's counters changed by `f`. -/
def countLink (f : LinkCounters → LinkCounters) (s : State) : State :=
  s.modLink fun l => { l with counters := f l.counters }

/-- The directory's counters changed by `f`. -/
def countDir (f : DirCounters → DirCounters) (s : State) : State := s.setDirCounters (f s.dirCounters)

/-! ### Time (01 R7) -/

/-- The timebase: a count of ms. -/
def State.timebase (s : State) : Nat := s.clock / Config.unitsPerMs

/-- The clock brought up to a reading, if it has not reached it: the moment a timer runs out has come (log 4). -/
def reach (due : Nat) (s : State) : State := s.setClock (max s.clock due)

/-- The timebase brought up to a reading in ms. -/
def reachMs (ms : Nat) (s : State) : State := reach (ms * Config.unitsPerMs) s

/-- When a timer stamped with the timebase runs out, in ms. -/
def MsTimer.due (m : MsTimer) : Nat := m.start + m.length

/-! ### Raising a notice (08 R157) -/

/-- NOTICE_ENABLE of a kind (09 R167, 10 R192). -/
def NoticeEnable.get (e : NoticeEnable) : NoticeKind → Nat
  | .started => e.started
  | .joined => e.joined
  | .gone => e.gone
  | .station => e.station
  | .conflict => e.conflict
  | .directoryFull => e.directoryFull
  | .undelivered => e.undelivered
  | .line => e.line
  | .pool => e.pool

/-- Whether a notice of a kind is raised: STARTED cannot be disabled. -/
def noticeOn (p : Params) (k : NoticeKind) : Bool := k = .started || p.enable.get k ≠ 0

/-- A block raises a notice: not raised while its kind is off, dropped when 32 are pending, else queued with the next sequence
and the lost count. -/
def raise (f : NoticeFields) (s : State) : State :=
  if noticeOn s.params f.kind then
    if Config.noticeRoom ≤ s.link.pendingNotices.length then
      countLink (fun c => { c with noticesLost := countUp c.noticesLost })
        (s.modLink fun l => { l with lost := upLost l.lost })
    else
      s.modLink fun l =>
        { l with
          pendingNotices := l.pendingNotices ++ [⟨l.noticeSeq, l.lost, f⟩]
          noticeSeq := l.noticeSeq + 1
          lost := 0 }
  else s

/-! ### Waking a controller (05 R93) -/

/-- A wake event reaches trunk `t`'s controller; it concerns only an IDLE one. A controller inside its own work decision stands as
IDLE here, so that a wake its own pick causes reaches it too: R93 does not say which it is then, and this is the model's choice
(log 9, DESIGN CHOICE). -/
def wake (t : TrunkId) (s : State) : State :=
  if (s.trunk t).activity = .idle then s.setWakes (s.wakes.set t true) else s

/-- A wake event reaches the controller of a home trunk, if there is one. -/
def wakeHome (home : Option TrunkId) (s : State) : State :=
  match home with
  | some t => wake t s
  | none => s

/-- A wake event reaches every controller. -/
def wakeAll (s : State) : State := wake 3 (wake 2 (wake 1 (wake 0 s)))

/-! ### Egresses (07 R130) -/

/-- The FIFO of a class on an egress. -/
def State.fifo (s : State) (e : Port) (c : Cls) : List QEntry :=
  match e with
  | .trunk t => (s.trunk t).egress.fifo.get c
  | .host => s.hostEgress.get c

/-- A FIFO replaced. When it becomes empty, its balance becomes 0 (07 R135); the HOST egress keeps no balances. -/
def setFifo (e : Port) (c : Cls) (q : List QEntry) (s : State) : State :=
  match e with
  | .trunk t => s.modTrunk t fun k =>
      { k with egress :=
        { fifo := k.egress.fifo.set c q
          balance := if q = [] then k.egress.balance.set c 0 else k.egress.balance } }
  | .host => s.setHostEgress (s.hostEgress.set c q)

/-- The number of entries of an egress over its four classes (07 R131). -/
def State.entries (s : State) (e : Port) : Nat :=
  (s.fifo e 0).length + (s.fifo e 1).length + (s.fifo e 2).length + (s.fifo e 3).length

/-- An egress's QUEUE_LIMIT (06 R127). -/
def State.queueLimit (s : State) (e : Port) : Nat :=
  match e with
  | .trunk t => (s.tparams t).queueLimit
  | .host => s.params.hostQueueLimit

/-- Whether an egress has room (06 R125). -/
def State.hasRoom (s : State) (e : Port) : Bool := s.entries e < s.queueLimit e

/-- A wake event reaches a trunk egress's controller; an append to the HOST egress is met by the transmitter (06 R128). -/
def wakePort (e : Port) (s : State) : State :=
  match e with
  | .trunk t => wake t s
  | .host => s

/-- An entry appended at the tail of its class (06 R128, 07 R130). -/
def appendEntry (e : Port) (c : Cls) (q : QEntry) (s : State) : State :=
  wakePort e (setFifo e c (s.fifo e c ++ [q]) s)

/-! ### The stored ticket (03 R42) -/

/-- Ticket `n`, when it is not FREE. -/
def State.ticket (s : State) (n : Nat) : Option Ticket := s.store.tickets.find? fun k => k.num = n

/-- What a STORED ticket holds; none while the ticket is FILLING. -/
def Ticket.body (k : Ticket) : Option TicketBody :=
  k.storedAt.bind fun m => k.dest.bind fun d => k.cls.bind fun c =>
    if h : c.toNat < 4 then some ⟨d, ⟨c.toNat, h⟩, k.data, m⟩ else none

/-- Ticket `n` with its contents, when it is STORED. -/
def State.stored (s : State) (n : Nat) : Option (Ticket × TicketBody) :=
  (s.ticket n).bind fun k => k.body.map fun b => (k, b)

/-- Whether a receiver listens: SURVEY or CARRY with a SOUND line (04 R62). -/
def Trunk.listening (k : Trunk) : Bool := k.mode ≠ .closed && k.line = .sound

end Sys2Proof.Machine
end

