-- ==== Sys2Proof/Machine/Lines.lean ====
section
/-!
DEFINITION. The lines bit by bit: the characters of 8N1, least significant bit first (04 R60, 08 R147), what the exchange puts on its
outputs, and the rates of the lines.
-/

namespace Sys2Proof.Machine

/-! ### Characters -/

/-- One bit of a character on a line, by its place in the character; the levels of the pins are outside the manual (00 About this
manual; log 35). -/
inductive LineBit
  | start
  | data (b : Bool)
  | stop
  deriving DecidableEq, Repr

/-- The ten bits of a character: start bit, eight data bits, the least significant first, stop bit; no parity (04 R60, 08 R147). -/
def charBits (c : Byte) : List LineBit :=
  .start :: ((List.range 8).map fun i => .data (c.getLsbD i)) ++ [.stop]

/-- Characters sent without a gap, each following the stop bit of the one before (04 R61, 08 R147). -/
def lineBits (cs : List Byte) : List LineBit := cs.flatMap charBits

/-- The character with these data bits, the least significant first. -/
def byteOfBits (ds : List Bool) : Byte := ds.foldr (fun d c => (c <<< 1) ||| bit d 0) 0

/-- The characters that a run of bits spells; `got` is none between two characters, and the data bits taken inside one. No character
is read from bits that do not make whole characters (log 35). -/
def charsOfBits (got : Option (List Bool)) (bs : List LineBit) : Option (List Byte) :=
  match bs with
  | [] => if got = none then some [] else none
  | b :: rest =>
    match got, b with
    | none, .start => charsOfBits (some []) rest
    | none, .data _ | none, .stop | some _, .start => none
    | some ds, .data d => charsOfBits (some (ds ++ [d])) rest
    | some ds, .stop => if ds.length = 8 then (charsOfBits none rest).map (byteOfBits ds :: ·) else none

/-! ### What the exchange puts out -/

/-- The bits of a trunk frame (04 R60, R65). -/
def Frame.bits (f : Frame) : List LineBit := lineBits f.chars

/-- The bits of a host message (08 R147, R148). -/
def Message.bits (m : Message) : List LineBit := lineBits m.chars

/-- TnDE: asserted from the start bit of a frame's first character to the stop bit of its last (04 R60). -/
def State.driverEnabled (s : State) (t : TrunkId) : Bool := (s.trunk t).tx.isSome

/-- TnTX: the bits of the frame being sent; none while the line is idle (04 R60). -/
def State.trunkOut (s : State) (t : TrunkId) : List LineBit := ((s.trunk t).tx.map Frame.bits).getD []

/-- The message that the host link's transmitter is sending (08 R154). -/
def HostTx.message : HostTx → Option Message
  | .free => none
  | .reply m | .notice m | .telegram m _ => some m

/-- HTX: the bits of the message being sent; none while it stands at its idle level (08 R147). -/
def State.hostOut (s : State) : List LineBit := (s.link.tx.message.map Message.bits).getD []

/-! ### Rates -/

/-- The host link's rate in baud, as the straps last read select it (00 Pin summary, 08 R147). -/
def State.hostRate (s : State) : Nat :=
  match s.straps.hrate1, s.straps.hrate0 with
  | false, false => 115200
  | false, true => 460800
  | true, false => 921600
  | true, true => 2000000

/-- The character time at a rate, in µs: ten bit times (04 R60, 08 R147). -/
def charTime (rate : Nat) : ℚ := 10 * 1000000 / rate

/-- The character time of trunk `t`: at the BIT_RATE it took when it left CLOSED (04 R60). -/
def State.charTime (s : State) (t : TrunkId) : ℚ := Machine.charTime (s.trunk t).bitRate

end Sys2Proof.Machine
end

