-- ==== Sys2Proof/Decode.lean ====
section
/-!
DEFINITION. The commands that words of the table spell (none), and the commands that received bytes spell: the host link's receiver
(08 R148, R149) and a trunk's receiver (04 R63 to R67). The encoders are `Machine.Message.chars` and `Machine.Frame.chars`, and
`Machine.Message.bits` and `Machine.Frame.bits` for the bits.
-/

namespace Sys2Proof

/-- The command that a word of the table spells: none, since no row of the table gives bits. -/
def decodeTableWord (_nbits _w : Nat) : Option Instr := none

/-! ### The host link's receiver -/

/-- The command of a valid message, by its kind (08 R148, R150). -/
def hostCommand (kind seq : Byte) (body : List Byte) : Instr :=
  if kind = 0x11 then .hello seq body
  else if kind = 0x12 then .set seq body
  else if kind = 0x13 then .get seq body
  else if kind = 0x14 then .trunk seq body
  else if kind = 0x15 then .pin seq body
  else if kind = 0x16 then .group seq body
  else if kind = 0x17 then .forget seq body
  else if kind = 0x18 then .lookup seq body
  else if kind = 0x19 then .walk seq body
  else if kind = 0x1A then .send seq body
  else if kind = 0x1B then .stats seq body
  else if kind = 0x1C then .flush seq body
  else if kind = 0x1D then .restart seq body
  else if kind = 0x21 then .credit seq body
  else if kind = 0x22 then .noted seq body
  else .unknownKindRequest kind seq body

/-- The kind code, sequence and body of the message that a command stands for, if it stands for a valid one (08 R148). -/
def Instr.asMessage : Instr → Option (Byte × Byte × List Byte)
  | .hello q b => some (0x11, q, b)
  | .set q b => some (0x12, q, b)
  | .get q b => some (0x13, q, b)
  | .trunk q b => some (0x14, q, b)
  | .pin q b => some (0x15, q, b)
  | .group q b => some (0x16, q, b)
  | .forget q b => some (0x17, q, b)
  | .lookup q b => some (0x18, q, b)
  | .walk q b => some (0x19, q, b)
  | .send q b => some (0x1A, q, b)
  | .stats q b => some (0x1B, q, b)
  | .flush q b => some (0x1C, q, b)
  | .restart q b => some (0x1D, q, b)
  | .unknownKindRequest k q b => some (k, q, b)
  | .credit q b => some (0x21, q, b)
  | .noted q b => some (0x22, q, b)
  | .powerOn _ _ | .resetLine _ _ | .lineFault _ | .lineSound _ | .sendHeader _ | .hostBadMessage | .hostMessageAbandon
  | .replyEnd | .noticeMessageEnd | .telegramEnd | .noticeTimerExpiry | .agingExpiry | .callDue _ | .pollStart _
  | .callStart _ | .deliverStart _ | .bcastStart _ | .confirmStart _ | .pollEnd _ | .callEnd _ | .deliverEnd _
  | .bcastEnd _ | .confirmEnd _ | .frameStart _ | .dataHeader _ _ | .dataFrame _ _ _ _ _ | .nilFrame _ _ | .ackFrame _ _
  | .busyFrame _ _ | .joinFrame _ _ _ | .failedFrame _ | .truncatedFrame _ | .fragmentEnd _ | .answerTimeout _
  | .callWindowExpiry _ | .settleGapEnd _ | .spreadGapEnd _ | .quietPeriodEnd _ | .resetAsserted => none

/-- The command at the end of a complete message: by its kind when the check matches, else a spoiled message (08 R149). -/
def judgeMessage (kind seq : Byte) (body check : List Byte) : Instr :=
  if check = Machine.numBytes (Machine.messageCheck kind seq body) then hostCommand kind seq body else .hostBadMessage

/-- The command at a message's kind byte: a SEND's reservation point (08 R153). -/
def headerCommands (length : BitVec 16) (kind : Byte) : List Instr := if kind = 0x1A then [.sendHeader length] else []

/-- What the receiver collects after a length field (08 R149): the commands, and the bytes left; none while the message is not
complete. -/
def collectMessage (length : BitVec 16) (bs : List Byte) : Option (List Instr × List Byte) :=
  match bs with
  | kind :: seq :: more =>
    if more.length < length.toNat then none
    else
      some (headerCommands length kind ++
          [judgeMessage kind seq (more.take (length.toNat - 2)) ((more.drop (length.toNat - 2)).take 2)],
        more.drop length.toNat)
  | _ => none

/-- The receiver hunting at the first of some bytes (08 R149): the commands they spell, and the bytes left; none while they are
not enough to tell. -/
def decodeHost (bs : List Byte) : Option (List Instr × List Byte) :=
  match bs with
  | [] => none
  | b :: rest =>
    if b = 0xA5 then
      match rest with
      | hi :: lo :: more =>
        let length := Machine.numOfBytes hi lo
        if 2 ≤ length.toNat ∧ length.toNat ≤ 258 then collectMessage length more else some ([.hostBadMessage], more)
      | _ => none
    else some ([], rest)

/-- The same from the bits on HRX (08 R147). -/
def decodeHostBits (bs : List Machine.LineBit) : Option (List Instr × List Byte) :=
  (Machine.charsOfBits none bs).bind decodeHost

/-! ### A trunk's receiver -/

/-- The command of a good frame: its kind code, bits 7 and 6, and its body length for the kind (04 R67). -/
def goodFrame (t : TrunkId) (station : Num) (control : Byte) (body : List Byte) : Option Instr :=
  let h : StationHead := ⟨station, control.getLsbD 4, control.getLsbD 5⟩
  let k := control &&& 0xCF
  if k = 0x09 then
    match body with
    | hi :: lo :: cls :: data =>
      if data.length ≤ Config.maxData then some (.dataFrame t h (Machine.numOfBytes hi lo) cls data) else none
    | _ => none
  else if k = 0x0A then if body = [] then some (.nilFrame t h) else none
  else if k = 0x0B then if body = [] then some (.ackFrame t h) else none
  else if k = 0x0C then if body = [] then some (.busyFrame t h) else none
  else if k = 0x0D then
    match body with
    | [profile] => some (.joinFrame t h profile)
    | _ => none
  else none

/-- The command at the end of a complete frame: a good frame's, else a failed frame (04 R66, R67). -/
def judgeFrame (t : TrunkId) (s1 s0 control bodyLen : Byte) (body check : List Byte) : Instr :=
  if check = Machine.numBytes (Machine.crc16 ([s1, s0, control, bodyLen] ++ body)) then
    (goodFrame t (Machine.numOfBytes s1 s0) control body).getD (.failedFrame t)
  else .failedFrame t

/-- What follows a complete frame before 3 idle character times have passed is a fragment (04 R63, R64). -/
def fragmentOf (t : TrunkId) (rest : List Byte) : List Instr := if rest = [] then [] else [.fragmentEnd t]

/-- The commands of one run of characters on trunk `t`: the characters from a frame's first one to the next 3 idle character
times (04 R63, R64, R67, R72). A run that its header does not measure, or that stops short, ends by idle. -/
def decodeFrame (t : TrunkId) (bs : List Byte) : List Instr :=
  match bs with
  | [] => []
  | lead :: s1 :: s0 :: control :: bodyLen :: more =>
    [.frameStart t, .dataHeader t ⟨lead, Machine.numOfBytes s1 s0, control, bodyLen⟩] ++
      if lead = 0xC3 ∧ bodyLen.toNat ≤ 243 ∧ bodyLen.toNat + 2 ≤ more.length then
        judgeFrame t s1 s0 control bodyLen (more.take bodyLen.toNat) ((more.drop bodyLen.toNat).take 2) ::
          fragmentOf t (more.drop (bodyLen.toNat + 2))
      else [.truncatedFrame t]
  | _ => [.frameStart t, .truncatedFrame t]

/-- The same from the bits on TnRX (04 R60). -/
def decodeFrameBits (t : TrunkId) (bs : List Machine.LineBit) : Option (List Instr) :=
  (Machine.charsOfBits none bs).map (decodeFrame t)

end Sys2Proof
end

