-- ==== Sys2Proof/Machine/Directory.lean ====
section
/-!
DEFINITION. The station directory (chapter 2): lookups, hearing and missing, JOIN, aging, held blocks, the host's edits.
-/

namespace Sys2Proof.Machine

/-! ### Entries -/

/-- The entry with a number. -/
def State.entry (s : State) (n : Num) : Option DirEntry := s.dir.find? fun e => e.num = n

/-- The station entry with a number. -/
def State.station (s : State) (n : Num) : Option Station :=
  (s.entry n).bind fun e =>
    match e.body with
    | .station st => some st
    | .group _ => none

/-- The member set of the group with a number. -/
def State.group (s : State) (n : Num) : Option Members :=
  (s.entry n).bind fun e =>
    match e.body with
    | .station _ => none
    | .group m => some m

/-- An entry put in its place by number, in place of one with the same number. -/
def putInto (e : DirEntry) : List DirEntry → List DirEntry
  | [] => [e]
  | x :: xs =>
    if e.num < x.num then e :: x :: xs
    else if e.num = x.num then e :: xs
    else x :: putInto e xs

/-- A station's entry written. -/
def putStation (n : Num) (st : Station) (s : State) : State := s.setDir (putInto ⟨n, .station st⟩ s.dir)

/-- An entry removed. -/
def dropEntry (n : Num) (s : State) : State := s.setDir (s.dir.filter fun e => e.num ≠ n)

/-- Whether an entry counts among the 64 PINNED and GROUP entries (02 R13). -/
def DirEntry.placed (e : DirEntry) : Bool :=
  match e.body with
  | .group _ => true
  | .station st =>
    match st.kind with
    | .pinned _ _ _ => true
    | .dynamic _ _ _ => false

/-- PINNED and GROUP entries present. -/
def State.placedCount (s : State) : Nat := (s.dir.filter DirEntry.placed).length

/-- Whether the directory has no room for one more entry (02 R13). -/
def State.dirFull (s : State) : Bool := Config.directoryCapacity ≤ s.dir.length

/-- Whether the directory has no room for one more PINNED or GROUP entry (02 R13). -/
def State.placesFull (s : State) : Bool := Config.pinnedCapacity ≤ s.placedCount

/-- Whether a number lies from 0001 to FEFF (01 R1). -/
def isStationNumber (n : Num) : Bool := 0x0001#16 ≤ n && n ≤ 0xFEFF#16

/-- Whether a number lies from FF00 to FFFE (01 R1). -/
def isGroupNumber (n : Num) : Bool := 0xFF00#16 ≤ n && n ≤ 0xFFFE#16

/-- A station's cap: its own when present, else STATION_CAP (02 R12). -/
def State.capOf (s : State) (st : Station) : Nat := st.kind.cap.getD s.params.stationCap

/-! ### Hearing and missing (02 R20, R21) -/

/-- A DYNAMIC entry heard is seen and not overdue. -/
def StationKind.heard : StationKind → StationKind
  | .dynamic home _ _ => .dynamic home true none
  | .pinned home cap pass => .pinned home cap pass

/-- Trunk `t` reports station `n` as heard (02 R20). -/
def heard (t : TrunkId) (n : Num) (s : State) : State :=
  match s.station n with
  | none => s
  | some st =>
    if st.home = some t then
      let s' := putStation n { st with missed := 0, state := .active, kind := st.kind.heard } s
      if st.state = .silent then wake t (raise (.station n .active) s') else s'
    else s

/-- Trunk `t` reports station `n` as missed (02 R21). -/
def missed (t : TrunkId) (n : Num) (s : State) : State :=
  match s.station n with
  | none => s
  | some st =>
    if st.home = some t ∧ st.missed < Config.missLimit then
      if st.missed + 1 = Config.missLimit ∧ st.state = .active then
        wake t (raise (.station n .silent)
          (putStation n { st with missed := st.missed + 1, state := .silent } s))
      else putStation n { st with missed := st.missed + 1 } s
    else s

/-! ### JOIN (02 R14 to R19) -/

/-- What the directory returns to the controller. -/
inductive JoinOutcome
  | ignored
  | receipt
  | refuse (r : Reason)
  deriving DecidableEq, Repr

/-- The entry made by a JOIN from an unknown station (02 R15). -/
def joinedStation (t : TrunkId) (profile : Byte) : Station where
  kind := .dynamic (some t) true none
  state := .active
  missed := 0
  held := 0
  profile := profile
  inMark := none
  outMark := false
  resync := false
  accepted := 0
  delivered := 0

/-- The fields a JOIN resets in an entry that it refreshes or moves (02 R16, R17, R18). -/
def Station.rejoined (st : Station) (kind : StationKind) (profile : Byte) : Station :=
  { st with
    kind := kind, state := .active, missed := 0, inMark := none, outMark := false, resync := false, profile := profile }

/-- A refresh of station `n` on its home `t` (02 R16, R18): a SILENT entry's return is reported. -/
def refreshJoin (t : TrunkId) (n : Num) (st : Station) (kind : StationKind) (profile : Byte) (s : State) : State :=
  let s' := putStation n (st.rejoined kind profile) s
  wake t (if st.state = .silent then raise (.station n .active) s' else s')

/-- The directory judges a JOIN from number `n` on trunk `t` (02 R14 to R19). -/
def judgeJoin (t : TrunkId) (n : Num) (profile : Byte) (s : State) : State × JoinOutcome :=
  if isStationNumber n then
    let s := countTrunk t (fun c => { c with joins := countUp c.joins }) s
    let learn : Bool := (s.tparams t).learn ≠ 0
    match s.station n with
    | none =>
      if !learn then (s, .refuse .learningOff)
      else if s.dirFull then
        (countDir (fun c => { c with fullRefusals := countUp c.fullRefusals }) (raise (.directoryFull n t) s),
          .refuse .directoryFull)
      else
        (wake t (countDir (fun c => { c with learned := countUp c.learned })
            (raise (.joined n t none profile) (putStation n (joinedStation t profile) s))), .receipt)
    | some st =>
      match st.kind with
      | .pinned home cap pass =>
        if home = t then (refreshJoin t n st (.pinned home cap pass) profile s, .receipt)
        else if !learn then (s, .refuse .learningOff)
        else
          (countDir (fun c => { c with conflicts := countUp c.conflicts }) (raise (.conflict n t home) s),
            .refuse .pinnedElsewhere)
      | .dynamic home _ _ =>
        if !learn then (s, .refuse .learningOff)
        else if home = some t then (refreshJoin t n st (.dynamic (some t) true none) profile s, .receipt)
        else
          (wake t (wakeHome home (countDir (fun c => { c with moved := countUp c.moved })
              (raise (.joined n t home profile)
                (putStation n (st.rejoined (.dynamic (some t) true none) profile) s)))), .receipt)
  else (countTrunk t (fun c => { c with badFrames := countUp c.badFrames }) s, .ignored)

/-! ### Aging (02 R22, R23) -/

/-- A station entry removed with a cause: GONE is raised, AGED counted for that cause, the home trunk told. -/
def removeStation (n : Num) (st : Station) (cause : Cause) (s : State) : State :=
  let s := raise (.gone n cause) (dropEntry n s)
  wakeHome st.home
    (if cause = .aged then countDir (fun c => { c with aged := countUp c.aged }) s else s)

/-- The scan's treatment of the entry with number `n` (02 R23). -/
def scanEntry (n : Num) (s : State) : State :=
  match s.station n with
  | none => s
  | some st =>
    match st.kind with
    | .pinned _ _ _ => s
    | .dynamic home seen overdue =>
      if seen then putStation n { st with kind := .dynamic home false overdue } s
      else if st.held = 0 then removeStation n st .aged s
      else if overdue = none then putStation n { st with kind := .dynamic home false (some .aged) } s
      else s

/-- The aging scan: every DYNAMIC entry, in ascending number (02 R23, 10 R193). -/
def agingScan (s : State) : State := (s.dir.map DirEntry.num).foldl (fun acc n => scanEntry n acc) s

/-! ### Held blocks (02 R25, R26) -/

/-- The store reports an acceptance from trunk `t` with a DATA's mark (02 R26). -/
def chargeSource (t : TrunkId) (n : Num) (mark : Bool) (blocks : Nat) (s : State) : State :=
  match s.station n with
  | none => s
  | some st =>
    putStation n
      { st with
        held := st.held + blocks
        accepted := up16 st.accepted
        inMark := if st.home = some t then some mark else st.inMark } s

/-- The store reports a release (02 R25, R26). -/
def releaseSource (n : Num) (blocks : Nat) (s : State) : State :=
  match s.station n with
  | none => s
  | some st =>
    let st' := { st with held := st.held - blocks }
    let s' := putStation n st' s
    match st.kind.overdue with
    | some cause =>
      if st'.held = 0 then removeStation n st cause s'
      else if s.capOf st ≤ st.held ∧ st'.held < s.capOf st then wakeHome st.home s' else s'
    | none =>
      if s.capOf st ≤ st.held ∧ st'.held < s.capOf st then wakeHome st.home s' else s'

/-! ### Turn marks (02 R28, R29; 04 R77) -/

/-- Whether a DATA under `mark` from station `n` on trunk `t` repeats the last one accepted (02 R28). -/
def State.isRepeat (s : State) (t : TrunkId) (n : Num) (mark : Bool) : Bool :=
  match s.station n with
  | some st => st.home = some t && st.inMark = some mark
  | none => false

/-- Trunk `t` reports a matching ACK from station `n` (02 R29). -/
def acknowledged (t : TrunkId) (n : Num) (s : State) : State :=
  match s.station n with
  | none => s
  | some st =>
    if st.home = some t then
      heard t n (putStation n
        { st with outMark := !st.outMark, resync := false, delivered := up16 st.delivered } s)
    else s

/-- Station `n`'s resync pending becomes yes, when it is homed on the trunk that removes the entry (04 R77). -/
def setResync (t : TrunkId) (n : Num) (s : State) : State :=
  match s.station n with
  | none => s
  | some st => if st.home = some t then putStation n { st with resync := true } s else s

/-! ### A trunk closes (02 R30) -/

/-- The closing's effect on the entry with number `n`. -/
def closeEntry (t : TrunkId) (n : Num) (s : State) : State :=
  match s.station n with
  | none => s
  | some st =>
    if st.home = some t then
      match st.kind with
      | .dynamic _ _ _ =>
        if st.held = 0 then raise (.gone n .closed) (dropEntry n s)
        else putStation n { st with kind := .dynamic none false (some .closed) } s
      | .pinned _ _ _ =>
        let s' := putStation n { st with missed := Config.missLimit, state := .silent } s
        if st.state = .active then raise (.station n .silent) s' else s'
    else s

/-- The closing effects of trunk `t`, in ascending number (02 R30, 10 R193). -/
def closingEffects (t : TrunkId) (s : State) : State :=
  (s.dir.map DirEntry.num).foldl (fun acc n => closeEntry t n acc) s

/-! ### Host edits (02 R32 to R36) -/

/-- The entry a PIN creates (02 R32). -/
def pinnedStation (home : TrunkId) (cap : Option Nat) (pass : Bool) (profile : Byte) : Station where
  kind := .pinned home cap pass
  state := .active
  missed := 0
  held := 0
  profile := profile
  inMark := none
  outMark := false
  resync := true
  accepted := 0
  delivered := 0

/-- A station made or kept PINNED at `home`: a change of home starts its marks afresh (02 R33, R34). -/
def Station.rehomed (st : Station) (home : TrunkId) (kind : StationKind) (profile : Byte) : Station :=
  if st.home = some home then { st with kind := kind, profile := profile }
  else
    { st with
      kind := kind, profile := profile, state := .active, missed := 0, inMark := none, outMark := false, resync := true }

/-- A PIN of number `n` (02 R32 to R34); both homes' controllers are told (09 R172). -/
def pinEntry (n : Num) (home : TrunkId) (cap : Option Nat) (pass : Bool) (profile : Byte) (s : State) :
    State × Except Failure EditResult :=
  match s.station n with
  | none =>
    if s.dirFull || s.placesFull then (s, .error .full)
    else (wake home (putStation n (pinnedStation home cap pass profile) s), .ok .created)
  | some st =>
    match st.kind with
    | .dynamic old _ _ =>
      if s.placesFull then (s, .error .full)
      else
        (wake home (wakeHome old (putStation n
            { st.rehomed home (.pinned home cap pass) profile with state := .active, missed := 0 } s)), .ok .converted)
    | .pinned old _ _ =>
      (wake home (wake old (putStation n (st.rehomed home (.pinned home cap pass) profile) s)), .ok .repinned)

/-- A GROUP of number `n` (02 R36). -/
def groupEntry (n : Num) (m : Members) (s : State) : State × Except Failure EditResult :=
  let s' := s.setDir (putInto ⟨n, .group m⟩ s.dir)
  match s.group n with
  | some _ => (s', .ok .replaced)
  | none => if s.dirFull || s.placesFull then (s, .error .full) else (s', .ok .created)

/-- A FORGET of number `n` (02 R35); the trunk that loses the station is told (09 R174). -/
def forgetEntry (n : Num) (s : State) : State × Except Failure EditResult :=
  match s.entry n with
  | none => (s, .error .notFound)
  | some e =>
    match e.body with
    | .group _ => (dropEntry n s, .ok .removed)
    | .station st =>
      if st.held = 0 then (removeStation n st .forgotten s, .ok .removed)
      else
        (wakeHome st.home (putStation n { st with kind := .dynamic none false (some .forgotten) } s), .ok .deferred)

/-! ### RESTART (02 R40) -/

/-- What a RESTART leaves of an entry: none of a DYNAMIC one, a GROUP as it was, a PINNED one reset. -/
def restartEntry (e : DirEntry) : Option DirEntry :=
  match e.body with
  | .group _ => some e
  | .station st =>
    match st.kind with
    | .dynamic _ _ _ => none
    | .pinned _ _ _ =>
      some ⟨e.num, .station
        { st with state := .active, missed := 0, held := 0, inMark := none, outMark := false, resync := true }⟩

/-- The aging timer started now with the AGING_PERIOD in force (02 R22). -/
def startAging (s : State) : State := s.setAging ⟨s.timebase, s.params.agingPeriod * 1000⟩

end Sys2Proof.Machine
end

