-- ==== Sys2Proof/Machine/Store.lean ====
section
/-!
DEFINITION. The telegram store (chapter 3): reservation, release, acceptance, reference drops, the low-pool state.
-/

namespace Sys2Proof.Machine

/-- A telegram's block count: the larger of 1 and its length divided by 32 and rounded up (01 R6). -/
def blockCount (length : Nat) : Nat := max 1 ((length + 31) / 32)

/-- A port's occupancy (03 R43). -/
def Occupancy.get (o : Occupancy) (p : Port) : Nat :=
  match p with
  | .trunk t => o.trunks.get t
  | .host => o.host

/-- A port's occupancy replaced. -/
def Occupancy.put (o : Occupancy) (p : Port) (v : Nat) : Occupancy :=
  match p with
  | .trunk t => { o with trunks := o.trunks.set t v }
  | .host => { o with host := v }

/-- A port's PORT_CAP (03 R47). -/
def State.portCap (s : State) (p : Port) : Nat :=
  match p with
  | .trunk t => (s.tparams t).portCap
  | .host => s.params.hostPortCap

/-- The lowest number from `n` on that no ticket of a rising list has. -/
def lowestFrom (n : Nat) : List Ticket → Nat
  | [] => n
  | k :: ks => if k.num = n then lowestFrom (n + 1) ks else n

/-- The lowest FREE ticket number (03 R44). -/
def State.lowestFree (s : State) : Nat := lowestFrom 0 s.store.tickets

/-- A ticket put in its place by number, in place of one with the same number. -/
def putTicketInto (k : Ticket) : List Ticket → List Ticket
  | [] => [k]
  | x :: xs =>
    if k.num < x.num then k :: x :: xs
    else if k.num = x.num then k :: xs
    else x :: putTicketInto k xs

/-- A ticket written. -/
def putTicket (k : Ticket) (s : State) : State :=
  s.setStore { s.store with tickets := putTicketInto k s.store.tickets }

/-- The store's counter of a failure reason raised by 1 (03 R45). -/
def countFailure (r : Reason) (s : State) : State :=
  match r with
  | .pool => s.setStore { s.store with poolFails := countUp s.store.poolFails }
  | .tickets => s.setStore { s.store with ticketFails := countUp s.store.ticketFails }
  | .portLimit => s.setStore { s.store with portLimitFails := countUp s.store.portLimitFails }
  | .queueFull | .noRoute | .lineDown | .local_ | .self_ | .badHeader | .notJoined | .surveyOnly
  | .directoryFull | .pinnedElsewhere | .learningOff => s

/-- Why a reservation fails: the first failed test of 03 R45. -/
def State.reserveFailure (s : State) (p : Port) (length : Nat) : Option Reason :=
  if s.store.freeBlocks < blockCount length then some .pool
  else if Config.ticketCount ≤ s.lowestFree then some .tickets
  else if s.portCap p < s.store.occ.get p + blockCount length then some .portLimit
  else none

/-- The store as a grant leaves it (03 R44, R56). -/
def Store.grant (st : Store) (n : Nat) (p : Port) (source : Num) (length : Nat) : Store :=
  let b := blockCount length
  let tickets := putTicketInto ⟨n, source, none, none, p, length, b, [], 0, none⟩ st.tickets
  { st with
    tickets := tickets
    freeBlocks := st.freeBlocks - b
    occ := st.occ.put p (st.occ.get p + b)
    leastFree := min st.leastFree (st.freeBlocks - b)
    peakTickets := max st.peakTickets tickets.length }

/-- The test for a low pool after a grant (03 R53, R55). -/
def testLow (s : State) : State :=
  if s.store.freeBlocks < s.params.poolLow ∧ s.store.low = false then
    raise (.pool true s.store.freeBlocks) (s.setStore { s.store with low := true })
  else s

/-- The test for a recovered pool after a release (03 R54, R55). -/
def testRecovered (s : State) : State :=
  if s.params.poolLow + Config.poolRecovery < s.store.freeBlocks ∧ s.store.low = true then
    raise (.pool false s.store.freeBlocks) (s.setStore { s.store with low := false })
  else s

/-- A port asks for a reservation (03 R44, R45). -/
def reserve (p : Port) (source : Num) (length : Nat) (s : State) : State × Held :=
  match s.reserveFailure p length with
  | some r => (countFailure r s, .failed r)
  | none => (testLow (s.setStore (s.store.grant s.lowestFree p source length)), .granted s.lowestFree)

/-- The store with ticket `k` FREE and its blocks returned (03 R49, R52). -/
def Store.release (st : Store) (k : Ticket) : Store :=
  { st with
    tickets := st.tickets.filter fun x => x.num ≠ k.num
    freeBlocks := st.freeBlocks + k.blocks
    occ := st.occ.put k.port (st.occ.get k.port - k.blocks) }

/-- A FILLING reservation released (03 R49). -/
def releaseFilling (n : Nat) (s : State) : State :=
  match s.ticket n with
  | none => s
  | some k => testRecovered (s.setStore (s.store.release k))

/-- What a port holds of its reservation given back (03 R49). -/
def giveBack (h : Option Held) (s : State) : State :=
  match h with
  | some (.granted n) => releaseFilling n s
  | some (.failed _) | none => s

/-- The report of a release to the directory, for a ticket that arrived from a trunk (03 R52). -/
def reportRelease (k : Ticket) (s : State) : State :=
  match k.port with
  | .trunk _ => releaseSource k.source k.blocks s
  | .host => s

/-- One reference to ticket `n` dropped; the last one releases the ticket (03 R51, R52). -/
def dropRef (n : Nat) (s : State) : State :=
  match s.ticket n with
  | none => s
  | some k =>
    if k.refs ≤ 1 then testRecovered (reportRelease k (s.setStore (s.store.release k)))
    else putTicket { k with refs := k.refs - 1 } s

/-- The destination, the class as received and the data of an arrival stand in its FILLING ticket `n` (03 R48): they are written
when the command that ends the arrival brings them (log 14). -/
def fillTicket (n : Nat) (dest : Num) (cls : Byte) (data : List Byte) (s : State) : State :=
  match s.ticket n with
  | none => s
  | some k => putTicket { k with dest := some dest, cls := some cls, data := data } s

/-- Ticket `n` becomes STORED with its references and the present reading of the timebase (03 R50). -/
def storeTicket (n : Nat) (refs : Nat) (s : State) : State :=
  match s.ticket n with
  | none => s
  | some k => putTicket { k with refs := refs, storedAt := some s.timebase } s

end Sys2Proof.Machine
end

