-- ==== Sys2Proof/Machine/Routing.lean ====
section
/-!
DEFINITION. The routing unit (chapter 6): the checks at the end of an arrival, the copy sets, the claim of room, acceptance.
-/

namespace Sys2Proof.Machine

/-- An egress a telegram needs, with the form of its entry there (06 R128). -/
abbrev Need := Port × Option Form

/-- Whether a trunk takes copies: CARRY with a SOUND line (06 R120 to R123). -/
def State.carries (s : State) (t : TrunkId) : Bool := (s.trunk t).mode = .carry && (s.trunk t).line = .sound

/-- The copies on the trunks of a set that carry (06 R121, R123). -/
def State.copies (s : State) (set : Quad Bool) : List Need :=
  ([0, 1, 2, 3] : List TrunkId).filterMap fun t =>
    if set.get t && s.carries t then some (.trunk t, some .bcast) else none

/-- The tests on the home trunk of a known unicast destination (06 R118), used by routing and by a reroute (07 R139).
`arrival` is the port the telegram arrived at. -/
def State.homeTest (s : State) (st : Station) (home : TrunkId) (arrival : Port) : Option Reason :=
  let k := s.trunk home
  if ¬(k.mode = .carry ∨ (k.mode = .survey ∧ st.kind.surveyPass = true)) then some .noRoute
  else if k.line ≠ .sound then some .lineDown
  else if arrival = .trunk home ∧ s.params.localTurn = 0 then some .local_
  else none

/-- An empty copy set refuses with NO_ROUTE (06 R123). -/
def orNoRoute (needs : List Need) : Except Reason (List Need) :=
  if needs = [] then .error .noRoute else .ok needs

/-- The egresses of an unknown unicast telegram (06 R120). -/
def State.routeUnknown (s : State) : Except Reason (List Need) :=
  if s.params.unknownPolicy = 0 then .ok [(.host, none)]
  else if s.params.unknownPolicy = 1 then .error .noRoute
  else orNoRoute (s.copies (Quad.all true))

/-- Step 5: the egresses a telegram needs (06 R117 to R122). -/
def State.chooseEgresses (s : State) (arrival : Port) (dest : Num) : Except Reason (List Need) :=
  if dest = 0x0000#16 then .ok [(.host, none)]
  else if isStationNumber dest then
    match s.station dest with
    | none => s.routeUnknown
    | some st =>
      match st.home with
      | none => s.routeUnknown
      | some home =>
        match s.homeTest st home arrival with
        | some r => .error r
        | none => .ok [(.trunk home, some .deliver)]
  else if isGroupNumber dest then
    match s.group dest with
    | none => .error .noRoute
    | some m => orNoRoute (s.copies m.trunks ++ if m.host then [(.host, none)] else [])
  else
    orNoRoute (s.copies (Quad.all true) ++ if s.params.broadcastToHost ≠ 0 then [(.host, none)] else [])

/-- Whether an arrival is on a trunk in SURVEY (06 R116). -/
def State.fromSurvey (s : State) (arrival : Port) : Bool :=
  match arrival with
  | .trunk t => (s.trunk t).mode = .survey
  | .host => false

/-- Whether the source of a trunk arrival has an entry (06 R114); not asked of a SEND. -/
def State.sourceKnown (s : State) (arrival : Port) (source : Num) : Bool :=
  match arrival with
  | .trunk _ => (s.entry source).isSome
  | .host => true

/-- The six checks in order (06 R112): the egresses and the class, or the refusal. -/
def State.route (s : State) (arrival : Port) (source dest : Num) (cls : Byte) : Except Reason (Cls × List Need) :=
  if h : cls.toNat < 4 then
    if ¬s.sourceKnown arrival source then .error .notJoined
    else if dest = source then .error .self_
    else if s.fromSurvey arrival ∧ dest ≠ 0x0000#16 then .error .surveyOnly
    else
      match s.chooseEgresses arrival dest with
      | .error r => .error r
      | .ok needs =>
        if needs.all fun n => s.hasRoom n.1 then .ok (⟨cls.toNat, h⟩, needs) else .error .queueFull
  else .error .badHeader

/-- The entries of an accepted telegram appended (06 R128). -/
def appendAll (ticket : Nat) (cls : Cls) (needs : List Need) (s : State) : State :=
  needs.foldl (fun acc n => appendEntry n.1 cls ⟨ticket, n.2, 0, false, false⟩ acc) s

/-- The source of a trunk arrival charged at acceptance (03 R50, 06 R128). -/
def chargeArrival (arrival : Port) (source : Num) (mark : Bool) (blocks : Nat) (s : State) : State :=
  match arrival with
  | .trunk t => chargeSource t source mark blocks s
  | .host => s

/-- The block count of a ticket. -/
def State.ticketBlocks (s : State) (n : Nat) : Nat := ((s.ticket n).map Ticket.blocks).getD 0

/-- A routing decision on the telegram that ticket `ticket` holds, and what follows from it, as one event (06 R111, R128; 03 R49):
acceptance, or a refusal that releases the reservation. -/
def routeArrival (arrival : Port) (source : Num) (mark : Bool) (ticket : Nat) (dest : Num) (cls : Byte)
    (s : State) : State × Option Reason :=
  match s.route arrival source dest cls with
  | .error r => (releaseFilling ticket s, some r)
  | .ok (c, needs) =>
    (chargeArrival arrival source mark (s.ticketBlocks ticket)
      (storeTicket ticket needs.length (appendAll ticket c needs s)), none)

end Sys2Proof.Machine
end

