-- ==== Sys2Proof/Machine/Egress.lean ====
section
/-!
DEFINITION. The egress queues (chapter 7): class service, head checks, reroutes, the HOST pick, removals and flushing.
-/

namespace Sys2Proof.Machine

/-! ### Removing an entry -/

/-- The head of a class removed. -/
def popHead (e : Port) (c : Cls) (s : State) : State := setFifo e c (s.fifo e c).tail s

/-- The head of a class replaced. -/
def setHead (e : Port) (c : Cls) (q : QEntry) (s : State) : State := setFifo e c (q :: (s.fifo e c).tail) s

/-- A DELIVER entry for which a frame has started leaves trunk `t` other than by a matching ACK: its destination's resync
pending is set (04 R77). -/
def resyncAfter (t : TrunkId) (q : QEntry) (s : State) : State :=
  if q.form = some .deliver ∧ q.started = true then
    match s.stored q.ticket with
    | some (_, b) => setResync t b.dest s
    | none => s
  else s

/-- A reference dropped for an entry removed from trunk `t`'s egress by a flush, counted in FLUSHED (07 R142). -/
def flushedEntry (t : TrunkId) (q : QEntry) (s : State) : State :=
  dropRef q.ticket (resyncAfter t q (countTrunk t (fun c => { c with flushed := countUp c.flushed }) s))

/-- The UNDELIVERED notice of an entry given up (01 R11). -/
def raiseUndelivered (e : Port) (q : QEntry) (r : Undelivered) (s : State) : State :=
  match s.stored q.ticket with
  | some (k, b) => raise (.undelivered q.ticket k.source b.dest b.cls r e) s
  | none => s

/-- UNDELIVERED, and EXPIRED for that reason (10 R187). -/
def countGivenUp (t : TrunkId) (r : Undelivered) (s : State) : State :=
  countTrunk t (fun c =>
    { c with
      undelivered := countUp c.undelivered
      expired := if r = .expired then countUp c.expired else c.expired }) s

/-- Whether giving up for a reason sets resync pending: not when the destination has no entry or another home (07 R138, R139). -/
def Undelivered.resyncs (r : Undelivered) : Bool := r = .expired || r = .silent || r = .retries

/-- The head entry `q` of a class on trunk `t` given up (01 R11, 07 R137, R138, 05 R100). -/
def giveUp (t : TrunkId) (c : Cls) (q : QEntry) (r : Undelivered) (s : State) : State :=
  let s := countGivenUp t r (popHead (.trunk t) c s)
  let s := if r.resyncs then resyncAfter t q s else s
  dropRef q.ticket (raiseUndelivered (.trunk t) q r s)

/-! ### Class service (07 R133, R134) -/

/-- The weights of the classes that hold an entry; 0 for the others. -/
def State.activeWeight (s : State) (t : TrunkId) (c : Cls) : Nat :=
  if s.fifo (.trunk t) c = [] then 0 else (s.tparams t).weight.get c

/-- The classes that hold an entry, highest first. -/
def State.activeClasses (s : State) (t : TrunkId) : List Cls :=
  ([3, 2, 1, 0] : List Cls).filter fun c => s.fifo (.trunk t) c ≠ []

/-- The class of the largest balance, the highest of those that share it; the list is highest class first. -/
def largest (bal : Quad Int) : List Cls → Option Cls
  | [] => none
  | c :: cs =>
    match largest bal cs with
    | none => some c
    | some d => if bal.get c < bal.get d then some d else some c

/-- The balances after each class that holds an entry has added its weight (07 R133 step 1). -/
def State.addedBalances (s : State) (t : TrunkId) : Quad Int :=
  let b := (s.trunk t).egress.balance
  ⟨b.a0 + s.activeWeight t 0, b.a1 + s.activeWeight t 1, b.a2 + s.activeWeight t 2, b.a3 + s.activeWeight t 3⟩

/-- The sum of the weights added. -/
def State.weightSum (s : State) (t : TrunkId) : Nat :=
  s.activeWeight t 0 + s.activeWeight t 1 + s.activeWeight t 2 + s.activeWeight t 3

/-- Trunk `t`'s balances replaced. -/
def setBalances (t : TrunkId) (b : Quad Int) (s : State) : State :=
  s.modTrunk t fun k => { k with egress := { k.egress with balance := b } }

/-- The class chosen at a pick, with the balances it leaves; none when every FIFO is empty. -/
def chooseClass (t : TrunkId) (s : State) : State × Option Cls :=
  if (s.tparams t).express ≠ 0 ∧ s.fifo (.trunk t) 3 ≠ [] then (s, some 3)
  else
    match largest (s.addedBalances t) (s.activeClasses t) with
    | none => (s, none)
    | some c =>
      let b := s.addedBalances t
      (setBalances t (b.set c (b.get c - s.weightSum t)) s, some c)

/-! ### Head checks (07 R136 to R139) -/

/-- What the head checks find. -/
inductive HeadCheck
  | pass
  | giveUp (r : Undelivered)
  | reroute (u : TrunkId)
  deriving DecidableEq, Repr

/-- Whether a telegram has outlived its class's lifetime (01 R8). -/
def State.expired (s : State) (b : TicketBody) : Bool :=
  s.params.lifetime.get b.cls ≠ 0 && s.params.lifetime.get b.cls < s.timebase - b.storedAt

/-- The tests of a reroute to trunk `u` (07 R139). -/
def State.rerouteCheck (s : State) (st : Station) (u : TrunkId) (arrival : Port) : HeadCheck :=
  match s.homeTest st u arrival with
  | some _ => .giveUp .noRoute
  | none => if s.hasRoom (.trunk u) then .reroute u else .giveUp .rerouteFull

/-- The head checks of an entry on trunk `t`: lifetime, then, for a DELIVER, the destination's entry. -/
def State.headCheck (s : State) (t : TrunkId) (q : QEntry) : HeadCheck :=
  match s.stored q.ticket with
  | none => .pass
  | some (k, b) =>
    if s.expired b then .giveUp .expired
    else if q.form = some .deliver then
      match s.station b.dest with
      | none => .giveUp .noStation
      | some st =>
        match st.home with
        | none => .giveUp .noStation
        | some u =>
          if u ≠ t then s.rerouteCheck st u k.port
          else if st.state = .silent then .giveUp .silent
          else .pass
    else .pass

/-- The head entry `q` of a class moved from trunk `t` to trunk `u` (07 R139). -/
def reroute (t : TrunkId) (c : Cls) (q : QEntry) (u : TrunkId) (s : State) : State :=
  appendEntry (.trunk u) c { q with flushMark := false }
    (countTrunk t (fun k => { k with rerouted := countUp k.rerouted }) (popHead (.trunk t) c s))

/-- A pick at trunk `t`'s egress, given the number of entries it can take (07 R136). -/
def pickWithin (fuel : Nat) (t : TrunkId) (s : State) : State × Option (Cls × QEntry) :=
  match fuel with
  | 0 => (s, none)
  | n + 1 =>
    match chooseClass t s with
    | (s, none) => (s, none)
    | (s, some c) =>
      match s.fifo (.trunk t) c with
      | [] => (s, none)
      | q :: _ =>
        match s.headCheck t q with
        | .pass => (s, some (c, q))
        | .giveUp r => pickWithin n t (giveUp t c q r s)
        | .reroute u => pickWithin n t (reroute t c q u s)

/-- A pick at trunk `t`'s egress: each repetition takes one entry out, so its entries bound it. -/
def pickTrunk (t : TrunkId) (s : State) : State × Option (Cls × QEntry) :=
  pickWithin (s.entries (.trunk t) + 1) t s

/-! ### The HOST egress (07 R140) -/

/-- The highest class of the HOST egress that holds an entry. -/
def State.hostClass (s : State) : Option Cls :=
  ([3, 2, 1, 0] : List Cls).find? fun c => s.fifo .host c ≠ []

/-- A HOST entry given up with EXPIRED. -/
def giveUpHost (c : Cls) (q : QEntry) (s : State) : State :=
  dropRef q.ticket (raiseUndelivered .host q .expired (popHead .host c s))

/-- A pick at the HOST egress, given the number of entries it can take. -/
def hostPickWithin (fuel : Nat) (s : State) : State × Option (Cls × QEntry) :=
  match fuel with
  | 0 => (s, none)
  | n + 1 =>
    match s.hostClass with
    | none => (s, none)
    | some c =>
      match s.fifo .host c with
      | [] => (s, none)
      | q :: _ =>
        match s.stored q.ticket with
        | none => (s, some (c, q))
        | some (_, b) => if s.expired b then hostPickWithin n (giveUpHost c q s) else (s, some (c, q))

/-- A pick at the HOST egress. -/
def hostPick (s : State) : State × Option (Cls × QEntry) := hostPickWithin (s.entries .host + 1) s

/-! ### Flushing (07 R142 to R144) -/

/-- The class whose head is in flight on an egress (07 R132). -/
def State.inFlight (s : State) (e : Port) : Option Cls :=
  match e with
  | .trunk t =>
    match (s.trunk t).activity, (s.trunk t).txn with
    | .delivering, some x =>
      match x.kind with
      | .deliver _ c _ _ => some c
      | .poll _ | .call | .bcast _ _ => none
    | .spreading, some x =>
      match x.kind with
      | .bcast c _ => some c
      | .poll _ | .call | .deliver _ _ _ _ => none
    | .idle, _ | .polling, _ | .calling, _ | .confirming, _ | .settling, _ | .quiet, _ => none
    | .delivering, none | .spreading, none => none
  | .host =>
    match s.link.tx with
    | .telegram _ entry => entry
    | .free | .reply _ | .notice _ => none

/-- The effect of one removal by a flush: on a trunk it is counted; at HOST only the reference falls (10 R187). -/
def flushOne (e : Port) (q : QEntry) (s : State) : State :=
  match e with
  | .trunk t => flushedEntry t q s
  | .host => dropRef q.ticket s

/-- One class flushed, its head in flight marked and kept (07 R142): the state and the count for the reply. -/
def flushClass (e : Port) (c : Cls) (s : State) : State × Nat :=
  match s.fifo e c with
  | [] => (s, 0)
  | q :: rest =>
    if s.inFlight e = some c then
      (rest.foldl (fun acc x => flushOne e x acc) (setFifo e c [{ q with flushMark := true }] s), rest.length + 1)
    else ((q :: rest).foldl (fun acc x => flushOne e x acc) (setFifo e c [] s), rest.length + 1)

/-- Classes flushed in the order given, their counts added. -/
def flushClasses (e : Port) (cs : List Cls) (s : State) : State × Nat :=
  cs.foldl (fun acc c =>
    let r := flushClass e c acc.1
    (r.1, acc.2 + r.2)) (s, 0)

/-- One class of trunk `t` emptied by a mode change, the entry in flight included (07 R144). -/
def emptyClass (t : TrunkId) (c : Cls) (s : State) : State :=
  (s.fifo (.trunk t) c).foldl (fun acc x => flushedEntry t x acc) (setFifo (.trunk t) c [] s)

/-- Trunk `t`'s egress emptied by a mode change (05 R105 step 2, 07 R144): the state and the number removed. -/
def emptyEgress (t : TrunkId) (s : State) : State × Nat :=
  (emptyClass t 0 (emptyClass t 1 (emptyClass t 2 (emptyClass t 3 s))), s.entries (.trunk t))

end Sys2Proof.Machine
end

