-- ==== Sys2Proof/Machine/Link.lean ====
section
/-!
DEFINITION. The host link (chapter 8): the transmitter, the notice channel, the reply queue and cache, the end of a stall.
-/

namespace Sys2Proof.Machine

/-! ### The transmitter (08 R154, R155, R158, R160) -/

/-- Whether a resend or a pending notice is due (08 R158, R160, R161). -/
def State.noticeDue (s : State) : Bool :=
  !s.link.stalled &&
    (s.link.resendDue ≠ .no ||
      (s.link.pendingNotices ≠ [] && s.link.unacked.length < s.params.noticeWindow))

/-- The resend of the oldest unacknowledged notice starts (08 R160); the one that ends a stall does not raise its resend
count (08 R161). -/
def startResend (s : State) : State :=
  match s.link.unacked with
  | [] => s.modLink fun l => { l with resendDue := .no }
  | u :: us =>
    countLink (fun c => { c with noticeResends := countUp c.noticeResends })
      (s.modLink fun l =>
        { l with
          tx := .notice u.notice.message
          unacked := { u with resends := if l.resendDue = .afterTimeout then u.resends + 1 else u.resends } :: us
          resendDue := .no })

/-- The first sending of the oldest pending notice starts (08 R158). -/
def startNotice (s : State) : State :=
  match s.link.pendingNotices with
  | [] => s
  | n :: ns =>
    countLink (fun c => { c with noticesSent := countUp c.noticesSent })
      (s.modLink fun l =>
        { l with tx := .notice n.message, pendingNotices := ns, unacked := l.unacked ++ [⟨n, 0⟩] })

/-- The transmitter takes the due notice: a resend ahead of a pending one (08 R160). -/
def takeNotice (s : State) : State := if s.link.resendDue ≠ .no then startResend s else startNotice s

/-- A TELEGRAM message starts from a picked HOST entry, taking one credit and the TELEGRAM sequence (08 R155). -/
def startTelegram (p : Cls × QEntry) (s : State) : State :=
  match s.stored p.2.ticket with
  | none => s
  | some (k, b) =>
    s.modLink fun l =>
      { l with
        tx := .telegram (telegramMessage l.telegramSeq k b) (some p.1)
        credit := l.credit - 1
        telegramSeq := l.telegramSeq + 1 }

/-- A free transmitter asks the HOST egress for a pick; notices that the pick raises may then be due (08 R154). -/
def takeTelegram (s : State) : State :=
  match hostPick s with
  | (s, some p) => startTelegram p s
  | (s, none) => if s.noticeDue then takeNotice s else s

/-- What the transmitter takes when it is free: a reply, else a due notice, else, with credit, a HOST pick (08 R154). R154 gives this
order at the end of a message; where two sources acquire something in the same event while the transmitter is free, either may be
taken first, and taking them in this order is the model's choice (log 36, DESIGN CHOICE); for a RESTART's completion R164 gives it. -/
def takeNext (s : State) : State :=
  match s.link.replies with
  | r :: rs => s.modLink fun l => { l with tx := .reply r, replies := rs }
  | [] => if s.noticeDue then takeNotice s else if 0 < s.link.credit then takeTelegram s else s

/-- The transmitter served at the end of an event (08 R154; log 8). -/
def serveLink (s : State) : State :=
  match s.link.tx with
  | .free => takeNext s
  | .reply _ | .notice _ | .telegram _ _ => s

/-- A message ends on HTX (08 R154, 10 R188). -/
def endMessage (s : State) : State :=
  countLink (fun c => { c with framesOut := countUp c.framesOut }) (s.modLink fun l => { l with tx := .free })

/-- The notice timer started now (08 R160). -/
def startNoticeTimer (s : State) : State :=
  s.modLink fun l => { l with noticeTimer := some ⟨s.timebase, s.params.noticeTimeout⟩ }

/-! ### Messages in (08 R149, R150, R161) -/

/-- A message discarded or abandoned (08 R149), a grant ignored (R150) or a request discarded (R151) is counted. -/
def countBadIn (s : State) : State := countLink (fun c => { c with badFramesIn := countUp c.badFramesIn }) s

/-- A valid message is counted (08 R150). -/
def countIn (s : State) : State := countLink (fun c => { c with framesIn := countUp c.framesIn }) s

/-- The end of a stall at a valid message, after the message's own effect (08 R161). -/
def resume (s : State) : State :=
  if s.link.stalled then
    s.modLink fun l =>
      match l.unacked with
      | [] => { l with stalled := false }
      | u :: us => { l with stalled := false, unacked := { u with resends := 0 } :: us, resendDue := .afterStall }
  else s

/-- The SEND arrival's reservation given back and the receiver hunting again (03 R49). -/
def dropArrival (s : State) : State :=
  match s.link.rx with
  | .collecting _ held => giveBack held (s.modLink fun l => { l with rx := .hunting })
  | .hunting | .readingLength => s.modLink fun l => { l with rx := .hunting }

/-! ### Replies (08 R151, R152) -/

/-- What the execution of a request answers; the reply of a RESTART is formed later. -/
inductive Answer
  | done (body : List Byte)
  | failed (e : Failure)
  | later
  deriving DecidableEq, Repr

/-- A reply joins the reply queue. -/
def queueReply (m : Message) (s : State) : State := s.modLink fun l => { l with replies := l.replies ++ [m] }

/-- The reply cache's record replaced. -/
def setCache (r : CacheRecord) (s : State) : State := s.modLink fun l => { l with cache := some r }

/-- The reply of an executed request, cached and queued (08 R152). -/
def conclude (seq : Byte) (check : BitVec 16) (r : State × Answer) : State :=
  match r.2 with
  | .done body => queueReply (doneReply seq body) (setCache ⟨seq, check, some (doneReply seq body)⟩ r.1)
  | .failed e => queueReply (failedReply seq e) (setCache ⟨seq, check, some (failedReply seq e)⟩ r.1)
  | .later => setCache ⟨seq, check, none⟩ r.1

/-- Whether a request is a replay of the cached one (08 R152). -/
def State.isReplay (s : State) (seq : Byte) (check : BitVec 16) : Bool :=
  match s.link.cache with
  | some r => r.seq = seq && r.check = check
  | none => false

/-- A replay is counted, and a copy of the cached reply joins the reply queue if it has been formed (08 R152). -/
def replay (s : State) : State :=
  let s := countLink (fun c => { c with replays := countUp c.replays }) s
  match s.link.cache with
  | some r =>
    match r.reply with
    | some m => queueReply m s
    | none => s
  | none => s

/-- A request during a RESTART is answered FAILED BUSY and leaves the cache (08 R163). -/
def answerBusy (seq : Byte) (s : State) : State :=
  queueReply (failedReply seq .busy) (countLink (fun c => { c with busyReplies := countUp c.busyReplies }) s)

/-- Whether the reply queue is full for a new request (08 R151). -/
def State.repliesFull (s : State) : Bool := Config.replyRoom ≤ s.link.replies.length

end Sys2Proof.Machine
end

