-- ==== Sys2Proof/Machine/Controller.lean ====
section
/-!
DEFINITION. The trunk controllers (chapter 5): the poll ring, the work decision, wake events, abandonment, the end of a RESTART.
-/

namespace Sys2Proof.Machine

/-! ### The poll ring (05 R88, R89) -/

/-- The poll ring of trunk `t`, in ascending number. -/
def State.ring (s : State) (t : TrunkId) : List (Num × Station) :=
  s.dir.filterMap fun e =>
    match e.body with
    | .group _ => none
    | .station st => if st.home = some t then some (e.num, st) else none

/-- Whether a station is polled in a cycle with this count: ACTIVE, or SILENT in cycle 0 (05 R88, R90). -/
def Station.servedIn (st : Station) (cycle : Fin 8) : Bool := st.state = .active || cycle = 0

/-- Whether a station's held blocks are below its cap. -/
def State.belowCap (s : State) (st : Station) : Bool := st.held < s.capOf st

/-- The first eligible station of a part of the ring, and the withheld ones passed over before it (05 R88, R89). -/
def searchRing (s : State) (cycle : Fin 8) : List (Num × Station) → Nat × Option Num
  | [] => (0, none)
  | x :: xs =>
    if x.2.servedIn cycle then
      if s.belowCap x.2 then (0, some x.1)
      else ((searchRing s cycle xs).1 + 1, (searchRing s cycle xs).2)
    else searchRing s cycle xs

/-- Whether a number lies above the poll pointer; every number lies above start. -/
def abovePointer (p : Option Num) (n : Num) : Bool :=
  match p with
  | none => true
  | some q => q < n

/-- Withheld stations counted (10 R187). -/
def countWithheld (t : TrunkId) (n : Nat) (s : State) : State :=
  countTrunk t (fun c => { c with withheld := countUpBy c.withheld n }) s

/-! ### Starting a transaction -/

/-- Whether a call is due on trunk `t` (05 R91). -/
def State.callIsDue (s : State) (t : TrunkId) : Bool :=
  (s.tparams t).learn ≠ 0 &&
    match (s.trunk t).lastCall with
    | none => true
    | some m => m + (s.tparams t).callSpacing ≤ s.timebase

/-- A transaction recorded, its frame waiting for the line. -/
def beginTxn (t : TrunkId) (a : Activity) (k : TxnKind) (s : State) : State :=
  s.modTrunk t fun r =>
    { r with activity := a, txn := some ⟨k, .waiting, false, none, none⟩, timer := none }

/-- A POLL decided: the pointer becomes the station's number (05 R89, R94). -/
def beginPoll (t : TrunkId) (passed : Nat) (n : Num) (s : State) : State :=
  beginTxn t .polling (.poll n) ((countWithheld t passed s).modTrunk t fun r => { r with pointer := some n })

/-- A CALL decided (05 R91, R97). -/
def beginCall (t : TrunkId) (s : State) : State := beginTxn t .calling .call s

/-- A DELIVER or BCAST decided for the entry a pick yields (05 R98, R101). -/
def beginEntry (t : TrunkId) (p : Cls × QEntry) (s : State) : State :=
  if p.2.form = some .deliver then
    beginTxn t .delivering
      (.deliver (((s.stored p.2.ticket).map fun x => x.2.dest).getD 0) p.1 p.2.ticket p.2.attempts) s
  else beginTxn t .spreading (.bcast p.1 p.2.ticket) s

/-! ### The work decision (05 R92) -/

/-- Whether the burst lets a delivery go before the next poll (05 R92 step 1). -/
def State.burstOpen (s : State) (t : TrunkId) : Bool :=
  match (s.trunk t).burst with
  | some used => used < (s.tparams t).deliveryBurst
  | none => false

/-- The cycle ends, the rest of the ring passed over (05 R89). -/
def endCycle (t : TrunkId) (passed : Nat) (s : State) : State :=
  (countWithheld t passed s).modTrunk t fun r => { r with cycle := r.cycle + 1, pointer := none, callMade := false }

/-- Whether the ring holds a SILENT station below its cap (05 R92 step 6). -/
def State.silentWaits (s : State) (t : TrunkId) : Bool :=
  (s.ring t).any fun x => x.2.state = .silent && s.belowCap x.2

/-- The controller with nothing to do (05 R92 step 7). -/
def goIdle (t : TrunkId) (s : State) : State := s.modTrunk t fun r => { r with activity := .idle, burst := none }

/-- Steps 5 to 7: a delivery without a poll, another decision for a SILENT station, or nothing. -/
def decideLast (t : TrunkId) (s : State) : State × Bool :=
  match pickTrunk t s with
  | (s, some p) => (beginEntry t p s, false)
  | (s, none) => if s.silentWaits t then (s, true) else (goIdle t s, false)

/-- Step 4 after the cycle's end: a due call, else a poll from start, else steps 5 to 7. A search from start that finds none
counts no withheld station; that cycle's end will (log 10). -/
def decideFromStart (t : TrunkId) (s : State) : State × Bool :=
  if s.callIsDue t then (beginCall t s, false)
  else
    match searchRing s (s.trunk t).cycle (s.ring t) with
    | (passed, some n) => (beginPoll t passed n s, false)
    | (_, none) => decideLast t s

/-- Steps 2 to 4. -/
def decideCycle (t : TrunkId) (s : State) : State × Bool :=
  if (s.trunk t).pointer = none ∧ (s.trunk t).callMade = false ∧ s.callIsDue t = true then (beginCall t s, false)
  else
    match searchRing s (s.trunk t).cycle ((s.ring t).filter fun x => abovePointer (s.trunk t).pointer x.1) with
    | (passed, some n) => (beginPoll t passed n s, false)
    | (passed, none) => decideFromStart t (endCycle t passed s)

/-- One pass through the steps; `true` when step 6 asks for another. -/
def decideOnce (t : TrunkId) (s : State) : State × Bool :=
  if s.burstOpen t then
    match pickTrunk t s with
    | (s, some p) => ((beginEntry t p s).modTrunk t fun r => { r with burst := r.burst.map (· + 1) }, false)
    | (s, none) => decideCycle t s
  else decideCycle t s

/-- The passes a decision may take: step 6 reaches a SILENT station within seven further cycles (05 R90, R92). -/
def decideWithin (fuel : Nat) (t : TrunkId) (s : State) : State :=
  match fuel with
  | 0 => goIdle t s
  | n + 1 =>
    match decideOnce t s with
    | (s, true) => decideWithin n t s
    | (s, false) => s

/-- Whether a controller may decide: SURVEY or CARRY, a SOUND line, no transaction, no RESTART in progress (05 R92). -/
def State.mayDecide (s : State) (t : TrunkId) : Bool :=
  (s.trunk t).listening && (s.trunk t).txn.isNone && s.link.restart.isNone

/-- A controller's work decision (05 R92). -/
def workDecision (t : TrunkId) (s : State) : State := if s.mayDecide t then decideWithin 9 t s else s

/-- A transaction is over: the burst as its kind leaves it, then the work decision (05 R92). A POLL opens the burst, a CALL
closes it. What wakes this controller during that decision is kept for the event's end (log 9, DESIGN CHOICE). -/
def endTxn (t : TrunkId) (s : State) : State :=
  workDecision t (s.modTrunk t fun r =>
    { r with
      activity := .idle
      txn := none
      timer := none
      burst :=
        match r.txn with
        | some x =>
          match x.kind with
          | .poll _ => some 0
          | .call => none
          | .deliver _ _ _ _ | .bcast _ _ => r.burst
        | none => r.burst })

/-! ### Wake events at the end of an event (05 R93; log 9) -/

/-- The lowest trunk that a wake event has reached. -/
def State.nextWake (s : State) : Option TrunkId := ([0, 1, 2, 3] : List TrunkId).find? fun t => s.wakes.get t

/-- The woken controllers that are still IDLE decide, lowest trunk first; their picks may wake others, or the controller itself: a
decision that has woken its own controller and ends IDLE is made again (log 9, DESIGN CHOICE). -/
def runWakesWithin (fuel : Nat) (s : State) : State :=
  match fuel with
  | 0 => s.setWakes (Quad.all false)
  | n + 1 =>
    match s.nextWake with
    | none => s
    | some t =>
      let s := s.setWakes (s.wakes.set t false)
      runWakesWithin n (if (s.trunk t).activity = .idle then workDecision t s else s)

/-- The woken controllers decide. A further wake needs an entry given up or rerouted, or a ticket released, so that the
device's limits (at most 64 entries an egress) bound the number. -/
def runWakes (s : State) : State := runWakesWithin 600 s

/-- The end of an event: the woken controllers decide and the transmitter is served; a HOST pick may wake controllers in turn. That the
controllers decide before a free transmitter picks, so that the notices of their picks come first, is the model's choice: neither 05
R93, 08 R154 nor 10 R193 orders the two (log 37, DESIGN CHOICE). -/
def finish (s : State) : State := serveLink (runWakes (serveLink (runWakes s)))

/-! ### Gaps and quiet periods (05 R101, R102, R104) -/

/-- Trunk `t`'s timer started for a number of units of 100 µs. -/
def startTimer (t : TrunkId) (units : Nat) (s : State) : State :=
  s.modTrunk t fun r => { r with timer := some (s.clock + units) }

/-- A settle gap begins (05 R102). -/
def settle (t : TrunkId) (s : State) : State :=
  startTimer t (s.tparams t).settleGap (s.modTrunk t fun r => { r with activity := .settling })

/-- A quiet period begins: REPLY_TIMEOUT plus SETTLE_GAP (05 R104). -/
def goQuiet (t : TrunkId) (s : State) : State :=
  startTimer t ((s.tparams t).replyTimeout + (s.tparams t).settleGap)
    (s.modTrunk t fun r => { r with activity := .quiet })

/-! ### Abandonment (05 R103) -/

/-- The controller's record with its transaction dropped: no frame goes on, an answer in reception is STRAY. -/
def Trunk.abandoned (r : Trunk) : Trunk :=
  { r with
    activity := .idle
    txn := none
    timer := none
    tx := none
    burst := none
    rx := if r.rx = .answer then .stray else r.rx }

/-- What becomes of the entry in flight when the abandoning event does not flush it (05 R103, 07 R143). A BCAST that a FLUSH has
marked and whose frame has ended is counted in FLUSHED, as R101 counts it at the end of its spread gap; R103 and R143 do not say
so for an abandonment, and this is the model's choice (log 33, DESIGN CHOICE). -/
def abandonEntry (t : TrunkId) (s : State) : State :=
  match s.inFlight (.trunk t) with
  | none => s
  | some c =>
    match s.fifo (.trunk t) c with
    | [] => s
    | q :: _ =>
      if q.flushMark then flushedEntry t q (popHead (.trunk t) c s)
      else if (s.trunk t).activity = .spreading ∧ ((s.trunk t).txn.map Txn.phase) = some .ended then
        dropRef q.ticket (popHead (.trunk t) c s)
      else s

/-- The reservation of trunk `t`'s transaction given back (03 R49). -/
def giveBackTxn (t : TrunkId) (s : State) : State := giveBack ((s.trunk t).txn.bind Txn.held) s

/-- Trunk `t`'s transaction abandoned; `flushing` when the abandoning event removes its entry with the rest of the egress. -/
def abandon (t : TrunkId) (flushing : Bool) (s : State) : State :=
  let s := giveBackTxn t s
  let s := if flushing then s else abandonEntry t s
  s.modTrunk t Trunk.abandoned

/-! ### The completion of a RESTART (08 R164, 09 R183) -/

/-- The DONE body of a RESTART (09 R182). -/
def RestartFigures.bytes (f : RestartFigures) : List Byte :=
  [byteOf f.tickets] ++ bytes16 f.entries ++ [byteOf f.dynamics, byteOf f.notices]

/-- The RESTART completes: its DONE is cached and queued, STARTED is raised, the IDLE controllers decide (08 R164, 09 R183). -/
def completeRestart (p : RestartProgress) (s : State) : State :=
  let s := s.modLink fun l => { l with restart := none }
  let s :=
    match s.link.cache with
    | some r =>
      queueReply (doneReply r.seq p.figures.bytes)
        (setCache { r with reply := some (doneReply r.seq p.figures.bytes) } s)
    | none => s
  wakeAll (raise (.started .restart) s)

/-- The RESTART completes when no report is awaited. -/
def checkRestart (s : State) : State :=
  match s.link.restart with
  | some p => if p.waiting = Quad.all false then completeRestart p s else s
  | none => s

/-- Trunk `t`'s controller reports the end of the quiet period that the RESTART waits for (05 R110). -/
def reportQuiet (t : TrunkId) (s : State) : State :=
  match s.link.restart with
  | some p =>
    if p.waiting.get t then
      checkRestart (s.modLink fun l => { l with restart := some { p with waiting := p.waiting.set t false } })
    else s
  | none => s

end Sys2Proof.Machine
end

