-- ==== Sys2Proof/Machine/Operands.lean ====
section
/-!
DEFINITION. The operand forms of the host requests: codes (09 section 9.1) and parameters (09 R167, R168).
-/

namespace Sys2Proof.Machine

/-! ### Codes -/

/-- A trunk code. -/
def parseTrunk (b : Byte) : Option TrunkId := if h : b.toNat < 4 then some ⟨b.toNat, h⟩ else none

/-- An egress code: 04 (hex) for HOST. -/
def parsePort (b : Byte) : Option Port :=
  match parseTrunk b with
  | some t => some (.trunk t)
  | none => if b = 0x04 then some .host else none

/-- A mode code. -/
def parseMode (b : Byte) : Option Mode :=
  if b = 0x00 then some .closed
  else if b = 0x01 then some .survey
  else if b = 0x02 then some .carry
  else none

/-- A flag: 00 clear, 01 set. -/
def parseFlag (b : Byte) : Option Bool :=
  if b = 0x00 then some false else if b = 0x01 then some true else none

/-- A class set: not empty, bits 4 to 7 zero. -/
def parseClasses (b : Byte) : Option (Quad Bool) :=
  if b ≠ 0x00 ∧ b &&& 0xF0 = 0x00 then some ⟨b.getLsbD 0, b.getLsbD 1, b.getLsbD 2, b.getLsbD 3⟩ else none

/-- A member set: not empty, bits 5 to 7 zero. -/
def parseMembers (b : Byte) : Option Members :=
  if b ≠ 0x00 ∧ b &&& 0xE0 = 0x00 then
    some ⟨⟨b.getLsbD 0, b.getLsbD 1, b.getLsbD 2, b.getLsbD 3⟩, b.getLsbD 4⟩
  else none

/-- The kinds a WALK selects. -/
structure KindFilter where
  dynamic : Bool
  pinned : Bool
  group : Bool
  deriving DecidableEq, Repr

/-- A kind filter: not empty, bits 3 to 7 zero. -/
def parseFilter (b : Byte) : Option KindFilter :=
  if b ≠ 0x00 ∧ b &&& 0xF8 = 0x00 then some ⟨b.getLsbD 0, b.getLsbD 1, b.getLsbD 2⟩ else none

/-- A PIN's cap: 0 for absent, or 4 to 128 (09 R172). -/
def parseCap (b : Byte) : Option (Option Nat) :=
  if b = 0x00 then some none
  else if 4 ≤ b.toNat ∧ b.toNat ≤ 128 then some (some b.toNat)
  else none

/-- A counter group (09 R179). -/
inductive Group
  | trunk (t : TrunkId)
  | host
  | store
  | directory
  deriving DecidableEq, Repr

/-- A counter group's code. -/
def parseGroup (b : Byte) : Option Group :=
  match parseTrunk b with
  | some t => some (.trunk t)
  | none =>
    if b = 0x04 then some .host
    else if b = 0x05 then some .store
    else if b = 0x06 then some .directory
    else none

/-- A notice kind's code (10 R190). -/
def parseNoticeKind (b : Byte) : Option NoticeKind :=
  ([.started, .joined, .gone, .station, .conflict, .directoryFull, .undelivered, .line, .pool] : List NoticeKind).find?
    fun k => k.code = b

/-! ### Parameters -/

/-- The parameters that exist once per trunk. -/
inductive TrunkParam
  | bitRate
  | replyTimeout
  | settleGap
  | callWindow
  | callSpacing
  | learn
  | retryLimit
  | deliveryBurst
  | weight (c : Cls)
  | express
  | queueLimit
  | portCap
  deriving DecidableEq, Repr

/-- The global parameters. -/
inductive GlobalParam
  | agingPeriod
  | stationCap
  | unknownPolicy
  | localTurn
  | broadcastToHost
  | poolLow
  | lifetime (c : Cls)
  | noticeWindow
  | noticeTimeout
  deriving DecidableEq, Repr

/-- One of the 83 values. -/
inductive ParamRef
  | trunk (t : TrunkId) (p : TrunkParam)
  | hostQueueLimit
  | hostPortCap
  | global (p : GlobalParam)
  | notice (k : NoticeKind)
  deriving DecidableEq, Repr

/-- The trunk parameter with an id (09 R167). -/
def trunkParamOf (id : Byte) : Option TrunkParam :=
  if id = 0x01 then some .bitRate
  else if id = 0x02 then some .replyTimeout
  else if id = 0x03 then some .settleGap
  else if id = 0x04 then some .callWindow
  else if id = 0x05 then some .callSpacing
  else if id = 0x06 then some .learn
  else if id = 0x07 then some .retryLimit
  else if id = 0x08 then some .deliveryBurst
  else if id = 0x09 then some (.weight 3)
  else if id = 0x0A then some (.weight 2)
  else if id = 0x0B then some (.weight 1)
  else if id = 0x0C then some (.weight 0)
  else if id = 0x0D then some .express
  else if id = 0x0E then some .queueLimit
  else if id = 0x0F then some .portCap
  else none

/-- The global parameter with an id (09 R167). -/
def globalParamOf (id : Byte) : Option GlobalParam :=
  if id = 0x20 then some .agingPeriod
  else if id = 0x21 then some .stationCap
  else if id = 0x22 then some .unknownPolicy
  else if id = 0x23 then some .localTurn
  else if id = 0x24 then some .broadcastToHost
  else if id = 0x25 then some .poolLow
  else if id = 0x26 then some (.lifetime 0)
  else if id = 0x27 then some (.lifetime 1)
  else if id = 0x28 then some (.lifetime 2)
  else if id = 0x29 then some (.lifetime 3)
  else if id = 0x2A then some .noticeWindow
  else if id = 0x2B then some .noticeTimeout
  else none

/-- The value an id and a scope name; none is BAD_PARAM (09 R168). -/
def paramRef (id scope : Byte) : Option ParamRef :=
  match trunkParamOf id with
  | some p =>
    match parseTrunk scope with
    | some t => some (.trunk t p)
    | none =>
      if scope = 0x04 then
        if p = .queueLimit then some .hostQueueLimit
        else if p = .portCap then some .hostPortCap
        else none
      else none
  | none =>
    match globalParamOf id with
    | some p => if scope = 0xFF then some (.global p) else none
    | none => if id = 0x2C then (parseNoticeKind scope).map .notice else none

/-- A trunk parameter's value. -/
def TrunkParams.read (p : TrunkParams) : TrunkParam → Nat
  | .bitRate => p.bitRate
  | .replyTimeout => p.replyTimeout
  | .settleGap => p.settleGap
  | .callWindow => p.callWindow
  | .callSpacing => p.callSpacing
  | .learn => p.learn
  | .retryLimit => p.retryLimit
  | .deliveryBurst => p.deliveryBurst
  | .weight c => p.weight.get c
  | .express => p.express
  | .queueLimit => p.queueLimit
  | .portCap => p.portCap

/-- A trunk parameter written. -/
def TrunkParams.write (p : TrunkParams) (v : Nat) : TrunkParam → TrunkParams
  | .bitRate => { p with bitRate := v }
  | .replyTimeout => { p with replyTimeout := v }
  | .settleGap => { p with settleGap := v }
  | .callWindow => { p with callWindow := v }
  | .callSpacing => { p with callSpacing := v }
  | .learn => { p with learn := v }
  | .retryLimit => { p with retryLimit := v }
  | .deliveryBurst => { p with deliveryBurst := v }
  | .weight c => { p with weight := p.weight.set c v }
  | .express => { p with express := v }
  | .queueLimit => { p with queueLimit := v }
  | .portCap => { p with portCap := v }

/-- NOTICE_ENABLE of a kind written. -/
def NoticeEnable.write (e : NoticeEnable) (v : Nat) : NoticeKind → NoticeEnable
  | .started => { e with started := v }
  | .joined => { e with joined := v }
  | .gone => { e with gone := v }
  | .station => { e with station := v }
  | .conflict => { e with conflict := v }
  | .directoryFull => { e with directoryFull := v }
  | .undelivered => { e with undelivered := v }
  | .line => { e with line := v }
  | .pool => { e with pool := v }

/-- A value of the parameter table. -/
def Params.read (p : Params) : ParamRef → Nat
  | .trunk t q => (p.trunks.get t).read q
  | .hostQueueLimit => p.hostQueueLimit
  | .hostPortCap => p.hostPortCap
  | .global .agingPeriod => p.agingPeriod
  | .global .stationCap => p.stationCap
  | .global .unknownPolicy => p.unknownPolicy
  | .global .localTurn => p.localTurn
  | .global .broadcastToHost => p.broadcastToHost
  | .global .poolLow => p.poolLow
  | .global (.lifetime c) => p.lifetime.get c
  | .global .noticeWindow => p.noticeWindow
  | .global .noticeTimeout => p.noticeTimeout
  | .notice k => p.enable.get k

/-- A value of the parameter table written. -/
def Params.write (p : Params) (v : Nat) : ParamRef → Params
  | .trunk t q => { p with trunks := p.trunks.set t ((p.trunks.get t).write v q) }
  | .hostQueueLimit => { p with hostQueueLimit := v }
  | .hostPortCap => { p with hostPortCap := v }
  | .global .agingPeriod => { p with agingPeriod := v }
  | .global .stationCap => { p with stationCap := v }
  | .global .unknownPolicy => { p with unknownPolicy := v }
  | .global .localTurn => { p with localTurn := v }
  | .global .broadcastToHost => { p with broadcastToHost := v }
  | .global .poolLow => { p with poolLow := v }
  | .global (.lifetime c) => { p with lifetime := p.lifetime.set c v }
  | .global .noticeWindow => { p with noticeWindow := v }
  | .global .noticeTimeout => { p with noticeTimeout := v }
  | .notice k => { p with enable := p.enable.write v k }

/-- Whether a value lies from `lo` to `hi`. -/
def within (lo hi v : Nat) : Bool := lo ≤ v && v ≤ hi

/-- The ranges of the trunk parameters (09 R167). -/
def TrunkParam.inRange (p : TrunkParam) (v : Nat) : Bool :=
  match p with
  | .bitRate => ([19200, 57600, 115200, 250000, 500000, 1000000] : List Nat).contains v
  | .replyTimeout => within 1 255 v
  | .settleGap => within 1 50 v
  | .callWindow => within 1 255 v
  | .callSpacing => within 10 10000 v
  | .learn => within 0 1 v
  | .retryLimit => within 0 7 v
  | .deliveryBurst => within 1 8 v
  | .weight _ => within 1 15 v
  | .express => within 0 1 v
  | .queueLimit => within 4 64 v
  | .portCap => within 16 512 v

/-- The ranges of the global parameters (09 R167). -/
def GlobalParam.inRange (p : GlobalParam) (v : Nat) : Bool :=
  match p with
  | .agingPeriod => within 5 3600 v
  | .stationCap => within 4 128 v
  | .unknownPolicy => within 0 2 v
  | .localTurn => within 0 1 v
  | .broadcastToHost => within 0 1 v
  | .poolLow => within 8 256 v
  | .lifetime _ => v = 0 || within 10 60000 v
  | .noticeWindow => within 1 8 v
  | .noticeTimeout => within 50 5000 v

/-- Whether a value lies in a parameter's range (09 R168). -/
def ParamRef.inRange (p : ParamRef) (v : Nat) : Bool :=
  match p with
  | .trunk _ q => q.inRange v
  | .hostQueueLimit => within 4 64 v
  | .hostPortCap => within 16 512 v
  | .global q => q.inRange v
  | .notice _ => within 0 1 v

/-- Why a SET of a value in range cannot be carried out (09 R168): STARTED cannot be turned off, and BIT_RATE asks for a CLOSED
trunk. -/
def State.setObstacle (s : State) (p : ParamRef) (v : Nat) : Option Failure :=
  match p with
  | .notice .started => if v = 0 then some .conflict else none
  | .trunk t .bitRate => if (s.trunk t).mode = .closed then none else some .state
  | _ => none

/-- The wake events of a SET (05 R93, 09 R169). -/
def setWake (p : ParamRef) (s : State) : State :=
  match p with
  | .trunk t .learn => wake t s
  | .trunk t .callSpacing => wake t s
  | .global .stationCap => wakeAll s
  | _ => s

end Sys2Proof.Machine
end

