-- ==== Sys2Proof/Machine/Requests.lean ====
section
/-!
DEFINITION. The host requests (chapters 8 and 9): each row's meaning.
-/

namespace Sys2Proof.Machine

/-- What a command does while the reset line is held: nothing; the exchange is halted (08 R147; log 18). -/
def whileRunning (s : State) (f : State → State) : Host.Outcome State Fault Refusal :=
  .next (if s.inReset then s else f s)

/-! ### The judgement of a request (08 R150 to R152) -/

/-- A valid request judged in the order of 08 R151; `drop` gives back what the message held when it is not executed. -/
def judgeRequest (seq : Byte) (check : BitVec 16) (drop : State → State) (run : State → State × Answer) (s : State) :
    State :=
  if s.repliesFull then countBadIn (drop s)
  else if s.isReplay seq check then replay (drop s)
  else if s.link.restart.isSome then answerBusy seq (drop s)
  else checkRestart (conclude seq check (run s))

/-- A request message taken whole (08 R150, R151, R161). A body too long for the length field is a message discarded for its
length (08 R149; log 16). -/
def request (kind seq : Byte) (body : List Byte) (drop : State → State) (run : State → State × Answer) (s : State) :
    State :=
  if body.length ≤ Config.maxBody then
    finish (resume (judgeRequest seq (messageCheck kind seq body) drop run (countIn s)))
  else finish (countBadIn (drop s))

/-- A request that holds nothing before its end. -/
def plainRequest (kind seq : Byte) (body : List Byte) (run : State → State × Answer) (s : State) : State :=
  request kind seq body id run s

/-! ### HELLO (08 R162) -/

/-- The effect of the fresh flag. -/
def freshStart (s : State) : State :=
  s.modLink fun l =>
    { l with
      pendingNotices := []
      unacked := []
      noticeSeq := 0
      lost := 0
      noticeTimer := none
      resendDue := .no
      stalled := false
      credit := 0
      telegramSeq := 0 }

/-- The DONE body of HELLO. -/
def State.helloBody (s : State) : List Byte :=
  [0x4E, 0x34, 0x31, 0x36, 0x01, 4, byteOf Config.directoryCapacity, byteOf Config.pinnedCapacity,
    byteOf s.dir.length, byteOf s.placedCount] ++
    bytes16 Config.storeBlocks ++ bytes16 s.store.freeBlocks ++
    [byteOf Config.ticketCount, byteOf s.link.credit, 0] ++ bytes48 s.timebase

/-- A HELLO executed. -/
def runHello (body : List Byte) (s : State) : State × Answer :=
  match body with
  | [b] =>
    match parseFlag b with
    | none => (s, .failed .outOfRange)
    | some fresh =>
      let s := if fresh then freshStart s else s
      (s, .done s.helloBody)
  | _ => (s, .failed .badBody)

/-- HELLO. -/
def execHello (seq : Byte) (body : List Byte) (s : State) : Host.Outcome State Fault Refusal :=
  whileRunning s (plainRequest 0x11 seq body (runHello body))

/-! ### SET and GET (09 R168 to R170) -/

/-- The DONE body of SET and GET: id, scope, value. -/
def paramBody (id scope : Byte) (v : Nat) : List Byte := id :: scope :: bytes32 (BitVec.ofNat 32 v)

/-- A SET executed. -/
def runSet (body : List Byte) (s : State) : State × Answer :=
  match body with
  | [id, scope, v3, v2, v1, v0] =>
    match paramRef id scope with
    | none => (s, .failed .badParam)
    | some p =>
      let v := natOfBytes [v3, v2, v1, v0]
      if p.inRange v then
        match s.setObstacle p v with
        | some e => (s, .failed e)
        | none => (setWake p (s.setParams (s.params.write v p)), .done (paramBody id scope v))
      else (s, .failed .outOfRange)
  | _ => (s, .failed .badBody)

/-- SET. -/
def execSet (seq : Byte) (body : List Byte) (s : State) : Host.Outcome State Fault Refusal :=
  whileRunning s (plainRequest 0x12 seq body (runSet body))

/-- A GET executed. -/
def runGet (body : List Byte) (s : State) : State × Answer :=
  match body with
  | [id, scope] =>
    match paramRef id scope with
    | none => (s, .failed .badParam)
    | some p => (s, .done (paramBody id scope (s.params.read p)))
  | _ => (s, .failed .badBody)

/-- GET. -/
def execGet (seq : Byte) (body : List Byte) (s : State) : Host.Outcome State Fault Refusal :=
  whileRunning s (plainRequest 0x13 seq body (runGet body))

/-! ### TRUNK (05 R105 to R107, 09 R171) -/

/-- A change to CLOSED (05 R105): abandonment, flush, closing effects, a fresh record. -/
def closeTrunk (t : TrunkId) (s : State) : State × Nat :=
  let r := emptyEgress t (abandon t true s)
  ((closingEffects t r.1).modTrunk t fun k =>
    { k with
      mode := .closed
      activity := .idle
      txn := none
      timer := none
      tx := none
      rx := .none
      burst := none
      pointer := none
      cycle := 0
      callMade := false }, r.2)

/-- A quiet period after a change between SURVEY and CARRY, unless the line is FAULTED (05 R106). -/
def quietIfSound (t : TrunkId) (s : State) : State :=
  if (s.trunk t).line = .sound then goQuiet t s else s

/-- A change from CARRY to SURVEY (05 R106): a quiet period in progress runs on. -/
def carryToSurvey (t : TrunkId) (s : State) : State × Nat :=
  if (s.trunk t).activity = .quiet then
    let r := emptyEgress t s
    (r.1.modTrunk t fun k => { k with mode := .survey }, r.2)
  else
    let r := emptyEgress t (abandon t true s)
    (quietIfSound t (r.1.modTrunk t fun k => { k with mode := .survey }), r.2)

/-- A change from SURVEY to CARRY (05 R106): nothing is flushed but a marked entry of the abandoned transaction. -/
def surveyToCarry (t : TrunkId) (s : State) : State × Nat :=
  if (s.trunk t).activity = .quiet then (s.modTrunk t fun k => { k with mode := .carry }, 0)
  else (quietIfSound t ((abandon t false s).modTrunk t fun k => { k with mode := .carry }), 0)

/-- A change from CLOSED to SURVEY or CARRY (05 R107): a fresh cycle and a work decision at once. -/
def openTrunk (t : TrunkId) (m : Mode) (s : State) : State × Nat :=
  (workDecision t (s.modTrunk t fun k =>
    { k with
      mode := m
      activity := .idle
      pointer := none
      cycle := 0
      lastCall := none
      callMade := false
      burst := none
      bitRate := (s.tparams t).bitRate }), 0)

/-- The change of mode a TRUNK request asks for (09 R171), with the entries discarded. -/
def changeMode (t : TrunkId) (m : Mode) (s : State) : State × Nat :=
  match (s.trunk t).mode, m with
  | .closed, .closed => (s, 0)
  | .survey, .survey => (s, 0)
  | .carry, .carry => (s, 0)
  | .closed, .survey => openTrunk t .survey s
  | .closed, .carry => openTrunk t .carry s
  | .survey, .closed => closeTrunk t s
  | .carry, .closed => closeTrunk t s
  | .carry, .survey => carryToSurvey t s
  | .survey, .carry => surveyToCarry t s

/-- A TRUNK executed. -/
def runTrunk (body : List Byte) (s : State) : State × Answer :=
  match body with
  | [a, b] =>
    match parseTrunk a, parseMode b with
    | some t, some m =>
      let r := changeMode t m s
      (r.1, .done [a, b, byteOf r.2])
    | _, _ => (s, .failed .outOfRange)
  | _ => (s, .failed .badBody)

/-- TRUNK. -/
def execTrunk (seq : Byte) (body : List Byte) (s : State) : Host.Outcome State Fault Refusal :=
  whileRunning s (plainRequest 0x14 seq body (runTrunk body))

/-! ### Directory edits (09 R172 to R174) -/

/-- The answer of an edit: the number and the result code. -/
def editAnswer (hi lo : Byte) (r : State × Except Failure EditResult) : State × Answer :=
  match r.2 with
  | .ok e => (r.1, .done [hi, lo, e.code])
  | .error e => (r.1, .failed e)

/-- A PIN executed. -/
def runPin (body : List Byte) (s : State) : State × Answer :=
  match body with
  | [hi, lo, a, c, p, profile] =>
    if isStationNumber (numOfBytes hi lo) then
      match parseTrunk a, parseCap c, parseFlag p with
      | some home, some cap, some pass => editAnswer hi lo (pinEntry (numOfBytes hi lo) home cap pass profile s)
      | _, _, _ => (s, .failed .outOfRange)
    else (s, .failed .outOfRange)
  | _ => (s, .failed .badBody)

/-- PIN. -/
def execPin (seq : Byte) (body : List Byte) (s : State) : Host.Outcome State Fault Refusal :=
  whileRunning s (plainRequest 0x15 seq body (runPin body))

/-- A GROUP executed. -/
def runGroup (body : List Byte) (s : State) : State × Answer :=
  match body with
  | [hi, lo, m] =>
    if isGroupNumber (numOfBytes hi lo) then
      match parseMembers m with
      | some members => editAnswer hi lo (groupEntry (numOfBytes hi lo) members s)
      | none => (s, .failed .outOfRange)
    else (s, .failed .outOfRange)
  | _ => (s, .failed .badBody)

/-- GROUP. -/
def execGroup (seq : Byte) (body : List Byte) (s : State) : Host.Outcome State Fault Refusal :=
  whileRunning s (plainRequest 0x16 seq body (runGroup body))

/-- A FORGET executed. -/
def runForget (body : List Byte) (s : State) : State × Answer :=
  match body with
  | [hi, lo] => editAnswer hi lo (forgetEntry (numOfBytes hi lo) s)
  | _ => (s, .failed .badBody)

/-- FORGET. -/
def execForget (seq : Byte) (body : List Byte) (s : State) : Host.Outcome State Fault Refusal :=
  whileRunning s (plainRequest 0x17 seq body (runForget body))

/-! ### Reading the directory (02 R37, R38, 09 R175 to R177) -/

/-- A LOOKUP executed. -/
def runLookup (body : List Byte) (s : State) : State × Answer :=
  match body with
  | [hi, lo] =>
    match s.entry (numOfBytes hi lo) with
    | some e => (s, .done e.record)
    | none => (s, .failed .notFound)
  | _ => (s, .failed .badBody)

/-- LOOKUP. -/
def execLookup (seq : Byte) (body : List Byte) (s : State) : Host.Outcome State Fault Refusal :=
  whileRunning s (plainRequest 0x18 seq body (runLookup body))

/-- Whether a filter selects an entry. -/
def KindFilter.selects (f : KindFilter) (e : DirEntry) : Bool :=
  match e.body with
  | .group _ => f.group
  | .station st =>
    match st.kind with
    | .dynamic _ _ _ => f.dynamic
    | .pinned _ _ _ => f.pinned

/-- The entries a WALK may list: selected, above the start-after number, in ascending number. -/
def State.walkable (s : State) (after : Num) (f : KindFilter) : List DirEntry :=
  s.dir.filter fun e => f.selects e && after < e.num

/-- The DONE body of a WALK: more flag, entries listed, records. -/
def walkBody (count : Nat) (es : List DirEntry) : List Byte :=
  [if count < es.length then 0x01 else 0x00, byteOf (es.take count).length] ++ (es.take count).flatMap DirEntry.record

/-- A WALK executed. -/
def runWalk (body : List Byte) (s : State) : State × Answer :=
  match body with
  | [hi, lo, n, k] =>
    match parseFilter k with
    | some f =>
      if 1 ≤ n.toNat ∧ n.toNat ≤ 8 then (s, .done (walkBody n.toNat (s.walkable (numOfBytes hi lo) f)))
      else (s, .failed .outOfRange)
    | none => (s, .failed .outOfRange)
  | _ => (s, .failed .badBody)

/-- WALK. -/
def execWalk (seq : Byte) (body : List Byte) (s : State) : Host.Outcome State Fault Refusal :=
  whileRunning s (plainRequest 0x19 seq body (runWalk body))

/-! ### SEND (08 R153, 09 R178) -/

/-- Whether a SEND's body length is one its layout allows. -/
def sendLength (n : Nat) : Bool := within 3 243 n

/-- The reservation a SEND header asks for (08 R153). -/
def reserveSend (bodyLen : Nat) (s : State) : State :=
  let r := reserve .host 0 (bodyLen - 3) s
  r.1.modLink fun l => { l with rx := .collecting bodyLen (some r.2) }

/-- A SEND's kind byte arrives (08 R153): a reservation is asked unless the length or a RESTART forbids it. -/
def sendHeader (length : BitVec 16) (s : State) : State :=
  match s.link.rx with
  | .collecting _ _ => s
  | .hunting | .readingLength =>
    if within 2 258 length.toNat then
      if sendLength (length.toNat - 2) && s.link.restart.isNone then finish (reserveSend (length.toNat - 2) s)
      else s.modLink fun l => { l with rx := .collecting (length.toNat - 2) none }
    else s

/-- SEND_HEADER. -/
def execSendHeader (length : BitVec 16) (s : State) : Host.Outcome State Fault Refusal :=
  whileRunning s (sendHeader length)

/-- The ticket granted at a SEND's header holds what the body has brought when the message ends, whatever becomes of the message
(03 R48). -/
def fillArrival (body : List Byte) (s : State) : State :=
  match s.link.rx with
  | .collecting n (some (.granted k)) =>
    match body with
    | hi :: lo :: cls :: data => if n = data.length + 3 then fillTicket k (numOfBytes hi lo) cls data s else s
    | _ => s
  | .collecting _ (some (.failed _)) | .collecting _ none | .hunting | .readingLength => s

/-- A reservation asked at a SEND's end, its ticket filled with what the body has brought (log 12). -/
def lateArrival (dest : Num) (cls : Byte) (data : List Byte) (s : State) : State × Held :=
  match reserve .host 0 data.length (dropArrival s) with
  | (s, .granted n) => (fillTicket n dest cls data s, .granted n)
  | (s, .failed r) => (s, .failed r)

/-- The reservation a SEND holds at its end. One that was not asked at the header is asked now (log 12). -/
def sendArrival (dest : Num) (cls : Byte) (data : List Byte) (s : State) : State × Held :=
  match s.link.rx with
  | .collecting n (some h) =>
    if n = data.length + 3 then (s.modLink fun l => { l with rx := .hunting }, h) else lateArrival dest cls data s
  | .collecting _ none | .hunting | .readingLength => lateArrival dest cls data s

/-- The end of a well-formed SEND (08 R153, 06 R129). -/
def sendTelegram (dest : Num) (cls : Byte) (data : List Byte) (s : State) : State × Answer :=
  match sendArrival dest cls data s with
  | (s, .failed r) => (s, .failed (.refused r))
  | (s, .granted n) =>
    match routeArrival .host 0 false n dest cls s with
    | (s, some r) => (s, .failed (.refused r))
    | (s, none) =>
      (countLink (fun c => { c with telegramsIn := countUp c.telegramsIn }) s, .done [byteOf n])

/-- A SEND executed. -/
def runSend (body : List Byte) (s : State) : State × Answer :=
  match body with
  | hi :: lo :: cls :: data =>
    if data.length ≤ Config.maxData then sendTelegram (numOfBytes hi lo) cls data s
    else (dropArrival s, .failed .badBody)
  | _ => (dropArrival s, .failed .badBody)

/-- A SEND message taken whole, its bytes in the ticket its header was granted. -/
def sendMessage (seq : Byte) (body : List Byte) (s : State) : State :=
  request 0x1A seq body dropArrival (runSend body) (fillArrival body s)

/-- SEND. -/
def execSend (seq : Byte) (body : List Byte) (s : State) : Host.Outcome State Fault Refusal :=
  whileRunning s (sendMessage seq body)

/-! ### STATS (09 R179, R180) -/

/-- A trunk's counters in the order of 10 R186 and R187. -/
def TrunkCounters.list (c : TrunkCounters) : List Counter :=
  [c.polls, c.dataIn, c.nilIn, c.calls, c.callsGarbled, c.joins, c.delivers, c.acks, c.busyIn, c.timeouts, c.badFrames,
    c.late, c.stray, c.repeats, c.refusalsSent, c.withheld, c.spreads, c.undelivered, c.expired, c.rerouted, c.flushed]

/-- The host link's counters in the order of 10 R188. -/
def LinkCounters.list (c : LinkCounters) : List Counter :=
  [c.framesIn, c.framesOut, c.badFramesIn, c.replays, c.busyReplies, c.noticesSent, c.noticeResends, c.noticesLost,
    c.notedIgnored, c.telegramsOut, c.telegramsIn]

/-- The store's counters and gauges in the order of 10 R189. -/
def Store.list (st : Store) : List Counter :=
  [st.poolFails, st.ticketFails, st.portLimitFails, BitVec.ofNat 32 st.leastFree, BitVec.ofNat 32 st.peakTickets]

/-- The directory's counters in the order of 10 R189. -/
def DirCounters.list (c : DirCounters) : List Counter := [c.learned, c.moved, c.aged, c.conflicts, c.fullRefusals]

/-- A group's counters. -/
def State.groupCounters (s : State) : Group → List Counter
  | .trunk t => (s.trunk t).counters.list
  | .host => s.link.counters.list
  | .store => s.store.list
  | .directory => s.dirCounters.list

/-- A group's figures (09 R179). -/
def State.groupFigures (s : State) : Group → List Byte
  | .trunk _ => []
  | .host => []
  | .store => bytes16 s.store.freeBlocks ++ bytes16 s.store.tickets.length
  | .directory => bytes16 s.dir.length ++ bytes16 s.placedCount

/-- A group cleared: counters 0, gauges at the present values (09 R180, 03 R56). -/
def clearGroup (g : Group) (s : State) : State :=
  match g with
  | .trunk t => countTrunk t (fun _ => .zero) s
  | .host => countLink (fun _ => .zero) s
  | .store =>
    s.setStore
      { s.store with
        poolFails := 0
        ticketFails := 0
        portLimitFails := 0
        leastFree := s.store.freeBlocks
        peakTickets := s.store.tickets.length }
  | .directory => countDir (fun _ => .zero) s

/-- The DONE body of STATS. -/
def State.statsBody (s : State) (a b : Byte) (g : Group) : List Byte :=
  [a, b, byteOf (s.groupCounters g).length] ++ (s.groupCounters g).flatMap bytes32 ++ s.groupFigures g

/-- A STATS executed. -/
def runStats (body : List Byte) (s : State) : State × Answer :=
  match body with
  | [a, b] =>
    match parseGroup a, parseFlag b with
    | some g, some clear => (if clear then clearGroup g s else s, .done (s.statsBody a b g))
    | _, _ => (s, .failed .outOfRange)
  | _ => (s, .failed .badBody)

/-- STATS. -/
def execStats (seq : Byte) (body : List Byte) (s : State) : Host.Outcome State Fault Refusal :=
  whileRunning s (plainRequest 0x1B seq body (runStats body))

/-! ### FLUSH (07 R142, 09 R181) -/

/-- The classes of a class set, highest first. -/
def classList (set : Quad Bool) : List Cls := ([3, 2, 1, 0] : List Cls).filter fun c => set.get c

/-- A FLUSH executed. -/
def runFlush (body : List Byte) (s : State) : State × Answer :=
  match body with
  | [a, b] =>
    match parsePort a, parseClasses b with
    | some e, some set =>
      let r := flushClasses e (classList set) s
      (r.1, .done [a, byteOf r.2])
    | _, _ => (s, .failed .outOfRange)
  | _ => (s, .failed .badBody)

/-- FLUSH. -/
def execFlush (seq : Byte) (body : List Byte) (s : State) : Host.Outcome State Fault Refusal :=
  whileRunning s (plainRequest 0x1C seq body (runFlush body))

/-! ### RESTART (09 R182) -/

/-- Entries over the five egresses. -/
def State.allEntries (s : State) : Nat :=
  s.entries (.trunk 0) + s.entries (.trunk 1) + s.entries (.trunk 2) + s.entries (.trunk 3) + s.entries .host

/-- The figures of the DONE body, at the taking. -/
def State.restartFigures (s : State) : RestartFigures where
  tickets := s.store.tickets.length
  entries := s.allEntries
  dynamics := s.dir.length - s.placedCount
  notices := s.link.pendingNotices.length + s.link.unacked.length

/-- The store at the taking (03 R59). -/
def restartStore (s : State) : State :=
  s.setStore
    { s.store with tickets := [], freeBlocks := Config.storeBlocks, occ := ⟨Quad.all 0, 0⟩, low := false }

/-- Trunk `t` at the taking (05 R110, 07 R146): its entries counted in FLUSHED and removed, its transaction abandoned, a
fresh cycle, and QUIET in SURVEY or CARRY with a SOUND line. -/
def restartTrunk (t : TrunkId) (s : State) : State :=
  let n := s.entries (.trunk t)
  let s := s.modTrunk t fun k =>
    { k.abandoned with
      pointer := none
      cycle := 0
      lastCall := none
      callMade := false
      egress := .empty
      counters := { k.counters with flushed := countUpBy k.counters.flushed n } }
  if (s.trunk t).listening then goQuiet t s else s

/-- The directory at the taking (02 R40). -/
def restartDirectory (s : State) : State := startAging (s.setDir (s.dir.filterMap restartEntry))

/-- The host link at the taking (08 R163). -/
def restartLink (figures : RestartFigures) (s : State) : State :=
  s.modLink fun l =>
    { l with
      rx := .hunting
      tx :=
        match l.tx with
        | .telegram m _ => .telegram m none
        | .free => .free
        | .reply m => .reply m
        | .notice m => .notice m
      restart := some ⟨figures,
        ⟨(s.trunk 0).listening, (s.trunk 1).listening, (s.trunk 2).listening, (s.trunk 3).listening⟩⟩
      credit := 0
      telegramSeq := 0
      pendingNotices := []
      unacked := []
      lost := 0
      noticeTimer := none
      resendDue := .no
      stalled := false }

/-- Every counter 0, and the gauges at the store's present values (09 R182). -/
def clearAll (s : State) : State :=
  clearGroup (.trunk 0) (clearGroup (.trunk 1) (clearGroup (.trunk 2) (clearGroup (.trunk 3)
    (clearGroup .host (clearGroup .store (clearGroup .directory s))))))

/-- The taking of a RESTART, as one event. -/
def takeRestart (clear : Bool) (s : State) : State :=
  let r := restartLink s.restartFigures (restartDirectory
    (restartTrunk 3 (restartTrunk 2 (restartTrunk 1 (restartTrunk 0 ((restartStore s).setHostEgress (Quad.all [])))))))
  if clear then clearAll r else r

/-- A RESTART executed; its reply is formed at its completion. -/
def runRestart (body : List Byte) (s : State) : State × Answer :=
  match body with
  | [b] =>
    match parseFlag b with
    | none => (s, .failed .outOfRange)
    | some clear => (takeRestart clear s, .later)
  | _ => (s, .failed .badBody)

/-- RESTART. -/
def execRestart (seq : Byte) (body : List Byte) (s : State) : Host.Outcome State Fault Refusal :=
  whileRunning s (plainRequest 0x1D seq body (runRestart body))

/-! ### A kind that is no request (08 R151) -/

/-- UNKNOWN_KIND_REQUEST. -/
def execUnknownKindRequest (kind seq : Byte) (body : List Byte) (s : State) : Host.Outcome State Fault Refusal :=
  whileRunning s (plainRequest kind seq body fun s => (s, .failed .unknownKind))

end Sys2Proof.Machine
end

