-- ==== Sys2Proof/Machine/HostEvents.lean ====
section
/-!
DEFINITION. The grants, the spoiled messages, the ends of messages sent and the notice timer (chapter 8): each row's meaning.
-/

namespace Sys2Proof.Machine

/-! ### Grants (08 R150, R156, R159) -/

/-- A grant message taken whole, its effect before the end of a stall (08 R150, R161). A body too long for the length field is
a message discarded for its length (08 R149; log 16). -/
def grant (body : List Byte) (f : State → State) (s : State) : State :=
  if body.length ≤ Config.maxBody then finish (resume (f (countIn s))) else finish (countBadIn s)

/-- The effect of a CREDIT with this body (08 R156). -/
def takeCredit (body : List Byte) (s : State) : State :=
  match body with
  | [n] =>
    if 1 ≤ n.toNat ∧ n.toNat ≤ Config.maxCredit then
      s.modLink fun l => { l with credit := min Config.maxCredit (l.credit + n.toNat) }
    else countBadIn s
  | _ => countBadIn s

/-- CREDIT. Its sequence is disregarded (08 R148). -/
def execCredit (_seq : Byte) (body : List Byte) (s : State) : Host.Outcome State Fault Refusal :=
  whileRunning s (grant body (takeCredit body))

/-- What stays of the unacknowledged list when sequence `n` is acknowledged; none when no notice in it has that sequence. -/
def dropThrough (n : Byte) : List Unacked → Option (List Unacked)
  | [] => none
  | u :: us => if u.notice.seq = n then some us else dropThrough n us

/-- The list as an acknowledgement leaves it; a resend due is cancelled, and the timer stops, or restarts on a channel that is
not stalled (08 R159). -/
def acknowledge (rest : List Unacked) (s : State) : State :=
  let s := s.modLink fun l => { l with unacked := rest, resendDue := .no, noticeTimer := none }
  if rest = [] ∨ s.link.stalled then s else startNoticeTimer s

/-- The effect of a NOTED with this body (08 R159). -/
def takeNoted (body : List Byte) (s : State) : State :=
  match body with
  | [n] =>
    match dropThrough n s.link.unacked with
    | some rest => acknowledge rest s
    | none => countLink (fun c => { c with notedIgnored := countUp c.notedIgnored }) s
  | _ => countBadIn s

/-- NOTED. Its sequence is disregarded (08 R148). -/
def execNoted (_seq : Byte) (body : List Byte) (s : State) : Host.Outcome State Fault Refusal :=
  whileRunning s (grant body (takeNoted body))

/-! ### Spoiled messages (08 R149) -/

/-- A message discarded or abandoned: counted, a SEND's reservation released, a stall left as it is. -/
def spoiled (s : State) : State := finish (countBadIn (dropArrival s))

/-- HOST_BAD_MESSAGE. -/
def execHostBadMessage (s : State) : Host.Outcome State Fault Refusal := whileRunning s spoiled

/-- HOST_MESSAGE_ABANDON. -/
def execHostMessageAbandon (s : State) : Host.Outcome State Fault Refusal := whileRunning s spoiled

/-! ### Messages sent (08 R154, R155, R158, 07 R141) -/

/-- The end of a reply. -/
def replyEnd (s : State) : State :=
  match s.link.tx with
  | .reply _ => finish (endMessage s)
  | .free | .notice _ | .telegram _ _ => s

/-- REPLY_END. -/
def execReplyEnd (s : State) : Host.Outcome State Fault Refusal := whileRunning s replyEnd

/-- The notice timer starts at a notice message's end if it is not running and a notice is unacknowledged (08 R158, R160); it
does not run on a stalled channel (08 R161; log 30). -/
def timeNotice (s : State) : State :=
  if s.link.noticeTimer = none ∧ s.link.unacked ≠ [] ∧ s.link.stalled = false then startNoticeTimer s else s

/-- The end of a notice message. -/
def noticeEnd (s : State) : State :=
  match s.link.tx with
  | .notice _ => finish (timeNotice (endMessage s))
  | .free | .reply _ | .telegram _ _ => s

/-- NOTICE_MESSAGE_END. -/
def execNoticeMessageEnd (s : State) : Host.Outcome State Fault Refusal := whileRunning s noticeEnd

/-- The HOST entry of a TELEGRAM message that has ended leaves, marked by a FLUSH or not (07 R141, R143); a RESTART has already
removed it (03 R59). -/
def departHost (entry : Option Cls) (s : State) : State :=
  match entry with
  | none => s
  | some c =>
    match s.fifo .host c with
    | [] => s
    | q :: _ => dropRef q.ticket (popHead .host c s)

/-- The end of a TELEGRAM message. -/
def telegramEnd (s : State) : State :=
  match s.link.tx with
  | .telegram _ entry =>
    finish (departHost entry
      (countLink (fun c => { c with telegramsOut := countUp c.telegramsOut }) (endMessage s)))
  | .free | .reply _ | .notice _ => s

/-- TELEGRAM_END. -/
def execTelegramEnd (s : State) : Host.Outcome State Fault Refusal := whileRunning s telegramEnd

/-! ### The notice timer (08 R160) -/

/-- What the expiry does: a resend of the oldest notice becomes due, or the channel stalls. Where the resend that ends a stall (R161) is
still due and has not started, it becomes the resend of this expiry and raises the resend count; R160 and R161 do not say so, and this is
the model's choice (log 38, DESIGN CHOICE). -/
def noticeSilence (s : State) : State :=
  match s.link.unacked with
  | [] => s
  | u :: _ =>
    s.modLink fun l =>
      if u.resends < Config.resendLimit then { l with resendDue := .afterTimeout } else { l with stalled := true }

/-- The notice timer runs out. -/
def noticeTimerExpiry (s : State) : State :=
  match s.link.noticeTimer with
  | none => s
  | some m => finish (noticeSilence ((reachMs m.due s).modLink fun l => { l with noticeTimer := none }))

/-- NOTICE_TIMER_EXPIRY. -/
def execNoticeTimerExpiry (s : State) : Host.Outcome State Fault Refusal := whileRunning s noticeTimerExpiry

/-! ### The aging timer (02 R22, R23) -/

/-- The aging timer runs out: the next period starts where this one ended (log 24), and the scan is made. -/
def agingExpiry (s : State) : State :=
  finish (agingScan ((reachMs s.aging.due s).setAging ⟨s.aging.due, s.params.agingPeriod * 1000⟩))

/-- AGING_EXPIRY. -/
def execAgingExpiry (s : State) : Host.Outcome State Fault Refusal := whileRunning s agingExpiry

end Sys2Proof.Machine
end

