-- ==== Sys2Proof/Machine/Pins.lean ====
section
/-!
DEFINITION. Power, the reset line and the fault inputs: each row's meaning.
-/

namespace Sys2Proof.Machine

/-! ### Starting over (08 R165, 05 R108) -/

/-- The line state a fault input gives when a reset ends (05 R108). -/
def lineAt (asserted : Bool) : LineState := if asserted then .faulted else .sound

/-- Every block at its reset values, the straps read, the line states as the fault inputs stand. The waiting commands and the
count of free values used are the model's own and go on. -/
def afterReset (straps : Straps) (flt : Quad Bool) (s : State) : State :=
  { State.reset with
    pending := s.pending
    free := s.free
    straps := straps
    fltPins := flt
    trunks :=
      ⟨Trunk.reset (lineAt flt.a0), Trunk.reset (lineAt flt.a1), Trunk.reset (lineAt flt.a2), Trunk.reset (lineAt flt.a3)⟩ }

/-- A LINE notice reports trunk `t` as FAULTED if its fault input is asserted when a reset ends (05 R108). -/
def raiseStartFault (flt : Quad Bool) (t : TrunkId) (s : State) : State :=
  if flt.get t then raise (.line t .faulted) s else s

/-- The end of power-on or of the reset line: STARTED, then the LINE notices (05 R108, 08 R165). Their order among the trunks,
ascending, is the model's choice (log 34, DESIGN CHOICE). -/
def startUp (reason : StartReason) (straps : Straps) (flt : Quad Bool) (s : State) : State :=
  finish (raiseStartFault flt 3 (raiseStartFault flt 2 (raiseStartFault flt 1 (raiseStartFault flt 0
    (raise (.started reason) (afterReset straps flt s))))))

/-- POWER_ON (08 R165). -/
def execPowerOn (straps : Straps) (flt : Quad Bool) (s : State) : Host.Outcome State Fault Refusal :=
  .next (startUp .power straps flt s)

/-- RESET_LINE (08 R165). -/
def execResetLine (straps : Straps) (flt : Quad Bool) (s : State) : Host.Outcome State Fault Refusal :=
  .next (startUp .resetLine straps flt s)

/-- Trunk `t`'s transmitter stops and TnDE is released. -/
def silence (t : TrunkId) (s : State) : State := s.modTrunk t fun k => { k with tx := none }

/-- RESET_ASSERTED (08 R147): the exchange is halted, every output at its idle level, a RESTART in progress ended (log 18). -/
def execResetAsserted (s : State) : Host.Outcome State Fault Refusal :=
  .next (((silence 3 (silence 2 (silence 1 (silence 0 s)))).modLink fun l =>
    { l with tx := .free, restart := none }).setInReset true)

/-! ### The fault inputs (05 R85, R86) -/

/-- The level of trunk `t`'s fault input. -/
def setPin (t : TrunkId) (asserted : Bool) (s : State) : State := s.setFltPins (s.fltPins.set t asserted)

/-- A SOUND line becomes FAULTED, as one event (05 R85); a quiet period that a RESTART waits for is reported (05 R110). -/
def faultLine (t : TrunkId) (s : State) : State :=
  finish (reportQuiet t (raise (.line t .faulted)
    ((abandon t false s).modTrunk t fun k => { k with line := .faulted, rx := .none })))

/-- LINE_FAULT (05 R85). -/
def execLineFault (t : TrunkId) (s : State) : Host.Outcome State Fault Refusal :=
  whileRunning (setPin t true s) fun s => if (s.trunk t).line = .sound then faultLine t s else s

/-- A FAULTED line becomes SOUND, as one event (05 R86). -/
def soundLine (t : TrunkId) (s : State) : State :=
  let s := raise (.line t .sound) (s.modTrunk t fun k => { k with line := .sound })
  finish (if (s.trunk t).mode = .closed then s else goQuiet t s)

/-- LINE_SOUND (05 R86). -/
def execLineSound (t : TrunkId) (s : State) : Host.Outcome State Fault Refusal :=
  whileRunning (setPin t false s) fun s => if (s.trunk t).line = .faulted then soundLine t s else s

end Sys2Proof.Machine
end

