-- ==== Sys2Proof/Machine/TrunkReceive.lean ====
section
/-!
DEFINITION. The frames the exchange receives (chapters 4 and 5): starts, the DATA header, the judgement at a frame's end.
-/

namespace Sys2Proof.Machine

/-! ### Frame starts (04 R79, R81, R82) -/

/-- Whether trunk `t`'s answer timer or call window runs: its own frame has ended and nothing has begun since. -/
def State.awaitsAnswer (s : State) (t : TrunkId) : Bool :=
  let k := s.trunk t
  (k.activity = .polling || k.activity = .calling || k.activity = .delivering) &&
    k.txn.map Txn.phase = some .ended && k.timer.isSome

/-- Trunk `t`'s frame in reception. -/
def setRx (t : TrunkId) (r : Reception) (s : State) : State := s.modTrunk t fun k => { k with rx := r }

/-- A frame begins: the answer, and the timer is cancelled; LATE in a settle gap; else STRAY. A receiver that does not listen, or
whose trunk is transmitting, hears nothing (04 R60, R62). -/
def frameStart (t : TrunkId) (s : State) : State :=
  let k := s.trunk t
  if k.listening ∧ k.tx = none ∧ k.rx = .none then
    if s.awaitsAnswer t then s.modTrunk t fun r => { r with rx := .answer, timer := none }
    else if k.activity = .settling then setRx t .late s
    else setRx t .stray s
  else s

/-- FRAME_START. -/
def execFrameStart (t : TrunkId) (s : State) : Host.Outcome State Fault Refusal := whileRunning s (frameStart t)

/-! ### The DATA header (04 R72) -/

/-- The station that trunk `t` polls. -/
def State.polled (s : State) (t : TrunkId) : Option Num :=
  if (s.trunk t).activity = .polling then
    match (s.trunk t).txn.map Txn.kind with
    | some (.poll n) => some n
    | some .call | some (.deliver _ _ _ _) | some (.bcast _ _) | none => none
  else none

/-- What trunk `t`'s transaction holds of a reservation. -/
def State.heldOn (s : State) (t : TrunkId) : Option Held := (s.trunk t).txn.bind Txn.held

/-- The transaction's reservation replaced. -/
def setHeld (t : TrunkId) (h : Option Held) (s : State) : State :=
  s.modTrunk t fun k => { k with txn := k.txn.map fun x => { x with held := h } }

/-- Whether a header asks for a reservation while station `n` is polled: the conditions of 04 R72 on its characters. -/
def headerAsks (h : FrameHeader) (n : Num) : Bool :=
  h.lead = 0xC3 && h.station = n && h.control &&& 0xCF = FrameKind.data.code && within 3 243 h.bodyLen.toNat

/-- A reservation asked for a DATA of `length` bytes from station `n`, its result kept in the transaction. -/
def reserveData (t : TrunkId) (n : Num) (length : Nat) (s : State) : State :=
  let r := reserve (.trunk t) n length s
  setHeld t (some r.2) r.1

/-- The fifth character of the frame in reception. -/
def dataHeader (t : TrunkId) (h : FrameHeader) (s : State) : State :=
  match s.polled t with
  | none => s
  | some n =>
    if (s.trunk t).rx = .answer ∧ s.heldOn t = none ∧ headerAsks h n = true then
      finish (reserveData t n (h.bodyLen.toNat - 3) s)
    else s

/-- DATA_HEADER. -/
def execDataHeader (t : TrunkId) (h : FrameHeader) (s : State) : Host.Outcome State Fault Refusal :=
  whileRunning s (dataHeader t h)

/-! ### Frame ends (04 R80, R81, R82) -/

/-- The end of the frame in reception: an answer is judged, a LATE or STRAY frame is counted. -/
def frameEnds (t : TrunkId) (judge : State → State) (s : State) : State :=
  match (s.trunk t).rx with
  | .none => s
  | .late => setRx t .none (countTrunk t (fun c => { c with late := countUp c.late }) s)
  | .stray => setRx t .none (countTrunk t (fun c => { c with stray := countUp c.stray }) s)
  | .answer => finish (judge (setRx t .none s))

/-- The DELIVER that trunk `t`'s controller awaits an answer to: destination, class, attempts at the start. -/
def State.delivering (s : State) (t : TrunkId) : Option (Num × Cls × Nat) :=
  if (s.trunk t).activity = .delivering then
    match (s.trunk t).txn.map Txn.kind with
    | some (.deliver d c _ a) => some (d, c, a)
    | some (.poll _) | some .call | some (.bcast _ _) | none => none
  else none

/-- A DELIVER attempt has failed (05 R100): the entry is removed if a FLUSH has marked it, keeps its place with one more attempt,
or is given up for RETRIES. -/
def attemptFailed (t : TrunkId) (c : Cls) (attempts : Nat) (s : State) : State :=
  match s.fifo (.trunk t) c with
  | [] => s
  | q :: _ =>
    if q.flushMark then flushedEntry t q (popHead (.trunk t) c s)
    else if attempts < (s.tparams t).retryLimit then setHead (.trunk t) c { q with attempts := attempts + 1 } s
    else giveUp t c q .retries s

/-- A POLL or DELIVER ends unanswered: the station is missed, an attempt fails, the settle gap begins (04 R80, R81). -/
def unanswered (t : TrunkId) (s : State) : State :=
  match s.delivering t with
  | some (d, c, a) => settle t (attemptFailed t c a (missed t d s))
  | none =>
    match s.polled t with
    | some n => settle t (missed t n s)
    | none => s

/-- A bad answer to a POLL or DELIVER (04 R80): counted, a reservation released. -/
def badAnswer (t : TrunkId) (s : State) : State :=
  unanswered t (setHeld t none (giveBackTxn t (countTrunk t (fun c => { c with badFrames := countUp c.badFrames }) s)))

/-- A garbled call (05 R97). -/
def garbledCall (t : TrunkId) (s : State) : State :=
  settle t (countTrunk t (fun c => { c with callsGarbled := countUp c.callsGarbled }) s)

/-- An answer that is not the good one its transaction invites. -/
def notGood (t : TrunkId) (s : State) : State :=
  match (s.trunk t).activity with
  | .calling => garbledCall t s
  | .polling | .delivering => badAnswer t s
  | .idle | .spreading | .confirming | .settling | .quiet => s

/-- CONFIRMING entered with the frame to be sent (05 R95, R97). -/
def enterConfirming (t : TrunkId) (c : Confirm) (s : State) : State :=
  s.modTrunk t fun k =>
    { k with
      activity := .confirming
      txn := k.txn.map fun x => { x with phase := .waiting, held := none, confirm := some c } }

/-! ### NIL (05 R94) -/

/-- A good NIL from the station polled. -/
def goodNil (t : TrunkId) (n : Num) (s : State) : State :=
  endTxn t (heard t n (countTrunk t (fun c => { c with nilIn := countUp c.nilIn }) s))

/-- A good NIL frame as an answer. -/
def judgeNil (t : TrunkId) (h : StationHead) (s : State) : State :=
  match s.polled t with
  | some n => if h.station = n then goodNil t n (giveBackTxn t s) else notGood t s
  | none => notGood t s

/-- NIL_FRAME. -/
def execNilFrame (t : TrunkId) (h : StationHead) (s : State) : Host.Outcome State Fault Refusal :=
  whileRunning s (frameEnds t (judgeNil t h))

/-! ### ACK and BUSY (05 R99, R100) -/

/-- The head of a class leaves trunk `t` as delivered (05 R99). -/
def departHead (t : TrunkId) (c : Cls) (s : State) : State :=
  match s.fifo (.trunk t) c with
  | [] => s
  | q :: _ => dropRef q.ticket (popHead (.trunk t) c s)

/-- A good ACK from the station addressed. -/
def goodAck (t : TrunkId) (d : Num) (c : Cls) (attempts : Nat) (mark : Bool) (s : State) : State :=
  let s := countTrunk t (fun r => { r with acks := countUp r.acks }) s
  if (s.trunk t).txn.map Txn.mark = some mark then endTxn t (departHead t c (acknowledged t d s))
  else endTxn t (attemptFailed t c attempts (heard t d s))

/-- A good ACK frame as an answer. -/
def judgeAck (t : TrunkId) (h : StationHead) (s : State) : State :=
  match s.delivering t with
  | some (d, c, a) => if h.station = d then goodAck t d c a h.mark s else notGood t s
  | none => notGood t s

/-- ACK_FRAME. -/
def execAckFrame (t : TrunkId) (h : StationHead) (s : State) : Host.Outcome State Fault Refusal :=
  whileRunning s (frameEnds t (judgeAck t h))

/-- A good BUSY from the station addressed. -/
def goodBusy (t : TrunkId) (d : Num) (c : Cls) (attempts : Nat) (s : State) : State :=
  endTxn t (attemptFailed t c attempts (heard t d (countTrunk t (fun r => { r with busyIn := countUp r.busyIn }) s)))

/-- A good BUSY frame as an answer. -/
def judgeBusy (t : TrunkId) (h : StationHead) (s : State) : State :=
  match s.delivering t with
  | some (d, c, a) => if h.station = d then goodBusy t d c a s else notGood t s
  | none => notGood t s

/-- BUSY_FRAME. -/
def execBusyFrame (t : TrunkId) (h : StationHead) (s : State) : Host.Outcome State Fault Refusal :=
  whileRunning s (frameEnds t (judgeBusy t h))

/-! ### DATA (04 R74, 05 R95) -/

/-- Whether a DATA's length is the one its header gave: what a reservation was granted for, and at most 240 (04 R67; logs 13
and 16). -/
def State.dataFits (s : State) (t : TrunkId) (length : Nat) : Bool :=
  length ≤ Config.maxData &&
    match s.heldOn t with
    | some (.granted n) => (s.ticket n).map Ticket.length = some length
    | some (.failed _) | none => true

/-- A reservation asked now if the header had none (log 13). -/
def ensureHeld (t : TrunkId) (n : Num) (length : Nat) (s : State) : State :=
  match s.heldOn t with
  | none => reserveData t n length s
  | some _ => s

/-- The ticket granted to trunk `t`'s arrival, if there is one, holds what the DATA has brought (03 R48). -/
def fillHeld (t : TrunkId) (dest : Num) (cls : Byte) (data : List Byte) (s : State) : State :=
  match s.heldOn t with
  | some (.granted k) => fillTicket k dest cls data s
  | some (.failed _) | none => s

/-- A DATA judged new, with what was held of its reservation: the refusal to send, or none. -/
def newData (t : TrunkId) (n : Num) (mark : Bool) (dest : Num) (cls : Byte) (s : State) : State × Option Reason :=
  match s.heldOn t with
  | some (.granted k) => routeArrival (.trunk t) n mark k dest cls s
  | some (.failed r) => (s, some r)
  | none => (s, none)

/-- A good DATA from the station polled: heard, then repeat or new (04 R74). -/
def goodData (t : TrunkId) (n : Num) (mark : Bool) (dest : Num) (cls : Byte) (data : List Byte) (s : State) : State :=
  let s := fillHeld t dest cls data (ensureHeld t n data.length
    (heard t n (countTrunk t (fun c => { c with dataIn := countUp c.dataIn }) s)))
  if s.isRepeat t n mark then
    enterConfirming t ⟨n, mark, none⟩
      (giveBackTxn t (countTrunk t (fun c => { c with repeats := countUp c.repeats }) s))
  else
    let r := newData t n mark dest cls s
    enterConfirming t ⟨n, mark, r.2⟩ r.1

/-- A good DATA frame as an answer. -/
def judgeData (t : TrunkId) (h : StationHead) (dest : Num) (cls : Byte) (data : List Byte) (s : State) : State :=
  match s.polled t with
  | some n =>
    if h.station = n ∧ s.dataFits t data.length = true then goodData t n h.mark dest cls data s else notGood t s
  | none => notGood t s

/-- DATA_FRAME. -/
def execDataFrame (t : TrunkId) (h : StationHead) (dest : Num) (cls : Byte) (data : List Byte) (s : State) :
    Host.Outcome State Fault Refusal :=
  whileRunning s (frameEnds t (judgeData t h dest cls data))

/-! ### JOIN (05 R97) -/

/-- A good JOIN that answers a CALL: confirmed, refused, or ignored for its number. -/
def goodJoin (t : TrunkId) (h : StationHead) (profile : Byte) (s : State) : State :=
  match judgeJoin t h.station profile s with
  | (s, .receipt) => enterConfirming t ⟨h.station, h.mark, none⟩ s
  | (s, .refuse r) => enterConfirming t ⟨h.station, h.mark, some r⟩ s
  | (s, .ignored) => settle t s

/-- A good JOIN frame as an answer. -/
def judgeJoinFrame (t : TrunkId) (h : StationHead) (profile : Byte) (s : State) : State :=
  if (s.trunk t).activity = .calling then goodJoin t h profile s else notGood t s

/-- JOIN_FRAME. -/
def execJoinFrame (t : TrunkId) (h : StationHead) (profile : Byte) (s : State) : Host.Outcome State Fault Refusal :=
  whileRunning s (frameEnds t (judgeJoinFrame t h profile))

/-! ### Failed frames and fragments (04 R63, R64, R67) -/

/-- FAILED_FRAME. -/
def execFailedFrame (t : TrunkId) (s : State) : Host.Outcome State Fault Refusal :=
  whileRunning s (frameEnds t (notGood t))

/-- TRUNCATED_FRAME. -/
def execTruncatedFrame (t : TrunkId) (s : State) : Host.Outcome State Fault Refusal :=
  whileRunning s (frameEnds t (notGood t))

/-- A fragment ends: counted where the receiver listens and the exchange is not transmitting (04 R60, R62, R63). -/
def fragmentEnd (t : TrunkId) (s : State) : State :=
  if (s.trunk t).listening ∧ (s.trunk t).tx = none ∧ (s.trunk t).rx = .none then
    countTrunk t (fun c => { c with badFrames := countUp c.badFrames }) s
  else s

/-- FRAGMENT_END. -/
def execFragmentEnd (t : TrunkId) (s : State) : Host.Outcome State Fault Refusal := whileRunning s (fragmentEnd t)

end Sys2Proof.Machine
end

