-- ==== Sys2Proof/Machine/Timers.lean ====
section
/-!
DEFINITION. The trunk controllers' timers running out (chapters 4 and 5): each row's meaning.
-/

namespace Sys2Proof.Machine

/-- The moment at which trunk `t`'s timer runs out has come, and the timer is stopped (log 4). -/
def timeIsUp (t : TrunkId) (due : Nat) (s : State) : State := (reach due s).modTrunk t fun k => { k with timer := none }

/-! ### Answer timers (04 R81) -/

/-- The answer timer of a POLL or DELIVER runs out before any frame has begun. -/
def answerTimeout (t : TrunkId) (s : State) : State :=
  match (s.trunk t).timer with
  | some due =>
    if s.awaitsAnswer t ∧ (s.trunk t).activity ≠ .calling then
      finish (unanswered t (countTrunk t (fun c => { c with timeouts := countUp c.timeouts }) (timeIsUp t due s)))
    else s
  | none => s

/-- ANSWER_TIMEOUT. -/
def execAnswerTimeout (t : TrunkId) (s : State) : Host.Outcome State Fault Refusal := whileRunning s (answerTimeout t)

/-- A call window runs out before any frame has begun: the call ends quietly. -/
def callWindowExpiry (t : TrunkId) (s : State) : State :=
  match (s.trunk t).timer with
  | some due =>
    if s.awaitsAnswer t ∧ (s.trunk t).activity = .calling then finish (endTxn t (timeIsUp t due s)) else s
  | none => s

/-- CALL_WINDOW_EXPIRY. -/
def execCallWindowExpiry (t : TrunkId) (s : State) : Host.Outcome State Fault Refusal :=
  whileRunning s (callWindowExpiry t)

/-! ### Gaps (05 R101, R102) -/

/-- A settle gap ends, and the transaction with it. -/
def settleGapEnd (t : TrunkId) (s : State) : State :=
  match (s.trunk t).timer with
  | some due => if (s.trunk t).activity = .settling then finish (endTxn t (timeIsUp t due s)) else s
  | none => s

/-- SETTLE_GAP_END. -/
def execSettleGapEnd (t : TrunkId) (s : State) : Host.Outcome State Fault Refusal := whileRunning s (settleGapEnd t)

/-- The BCAST entry leaves at the end of its spread gap: counted in FLUSHED if a FLUSH has marked it (05 R101, 07 R143). -/
def departBcast (t : TrunkId) (s : State) : State :=
  match (s.trunk t).txn.map Txn.kind with
  | some (.bcast c _) =>
    match s.fifo (.trunk t) c with
    | [] => s
    | q :: _ =>
      if q.flushMark then flushedEntry t q (popHead (.trunk t) c s) else dropRef q.ticket (popHead (.trunk t) c s)
  | some (.poll _) | some .call | some (.deliver _ _ _ _) | none => s

/-- A spread gap ends, and the transaction with it. -/
def spreadGapEnd (t : TrunkId) (s : State) : State :=
  match (s.trunk t).timer with
  | some due =>
    if (s.trunk t).activity = .spreading then finish (endTxn t (departBcast t (timeIsUp t due s))) else s
  | none => s

/-- SPREAD_GAP_END. -/
def execSpreadGapEnd (t : TrunkId) (s : State) : Host.Outcome State Fault Refusal := whileRunning s (spreadGapEnd t)

/-! ### Quiet periods (05 R104, 09 R183) -/

/-- What follows a quiet period: a work decision, or IDLE and a report while a RESTART is in progress. -/
def afterQuiet (t : TrunkId) (s : State) : State :=
  if s.link.restart.isSome then reportQuiet t s else workDecision t s

/-- A quiet period ends. -/
def quietPeriodEnd (t : TrunkId) (s : State) : State :=
  match (s.trunk t).timer with
  | some due =>
    if (s.trunk t).activity = .quiet then
      finish (afterQuiet t ((timeIsUp t due s).modTrunk t fun k => { k with activity := .idle }))
    else s
  | none => s

/-- QUIET_PERIOD_END. -/
def execQuietPeriodEnd (t : TrunkId) (s : State) : Host.Outcome State Fault Refusal := whileRunning s (quietPeriodEnd t)

/-! ### Calls falling due (05 R91) -/

/-- The moment at which trunk `t`'s next call falls due has come; a trunk that has never called has one due already. -/
def reachCall (t : TrunkId) (s : State) : State :=
  match (s.trunk t).lastCall with
  | some m => reachMs (m + (s.tparams t).callSpacing) s
  | none => s

/-- A call falls due: an IDLE controller is woken. It happens only with LEARN on; while a RESTART is in progress the woken
controller stays IDLE (09 R183). -/
def callDue (t : TrunkId) (s : State) : State :=
  if (s.trunk t).listening ∧ (s.trunk t).activity = .idle ∧ (s.tparams t).learn ≠ 0 then
    finish (wake t (reachCall t s))
  else s

/-- CALL_DUE. -/
def execCallDue (t : TrunkId) (s : State) : Host.Outcome State Fault Refusal := whileRunning s (callDue t)

end Sys2Proof.Machine
end

