-- ==== Sys2Proof/Machine/TrunkSend.lean ====
section
/-!
DEFINITION. The frames the exchange sends (chapters 4 and 5): each row's meaning, at the frame's start and at its end.
-/

namespace Sys2Proof.Machine

/-- Whether trunk `t`'s waiting frame can start while the controller is in activity `a`: the line is idle (04 R61). -/
def State.mayStart (s : State) (t : TrunkId) (a : Activity) : Bool :=
  let k := s.trunk t
  k.listening && k.tx.isNone && k.rx = .none && k.activity = a && k.txn.map Txn.phase = some .waiting

/-- Whether the frame trunk `t`'s controller sends in activity `a` is on the line. -/
def State.sendingIn (s : State) (t : TrunkId) (a : Activity) : Bool :=
  (s.trunk t).activity = a && (s.trunk t).txn.map Txn.phase = some .sending

/-- The phase of trunk `t`'s present frame. -/
def setPhase (t : TrunkId) (p : FramePhase) (s : State) : State :=
  s.modTrunk t fun k => { k with txn := k.txn.map fun x => { x with phase := p } }

/-- A frame starts on TnTX, TnDE asserted (04 R60). -/
def startFrame (t : TrunkId) (f : Frame) (s : State) : State :=
  (setPhase t .sending s).modTrunk t fun k => { k with tx := some f }

/-- The frame's last stop bit: TnDE released (04 R60). -/
def endFrame (t : TrunkId) (s : State) : State :=
  (setPhase t .ended s).modTrunk t fun k => { k with tx := none }

/-! ### POLL (04 R69, R79) -/

/-- A POLL frame starts. -/
def pollStart (t : TrunkId) (s : State) : State :=
  if s.mayStart t .polling then
    match (s.trunk t).txn.map Txn.kind with
    | some (.poll n) => startFrame t (pollFrame n) (countTrunk t (fun c => { c with polls := countUp c.polls }) s)
    | some .call | some (.deliver _ _ _ _) | some (.bcast _ _) | none => s
  else s

/-- POLL_START. -/
def execPollStart (t : TrunkId) (s : State) : Host.Outcome State Fault Refusal := whileRunning s (pollStart t)

/-- A POLL frame ends: the answer timer runs for REPLY_TIMEOUT. -/
def pollEnd (t : TrunkId) (s : State) : State :=
  if s.sendingIn t .polling then startTimer t (s.tparams t).replyTimeout (endFrame t s) else s

/-- POLL_END. -/
def execPollEnd (t : TrunkId) (s : State) : Host.Outcome State Fault Refusal := whileRunning s (pollEnd t)

/-! ### CALL (04 R69, R79, 05 R91) -/

/-- A CALL frame starts: the last-call time is the present reading of the timebase. -/
def callStart (t : TrunkId) (s : State) : State :=
  if s.mayStart t .calling then
    startFrame t callFrame ((countTrunk t (fun c => { c with calls := countUp c.calls }) s).modTrunk t fun k =>
      { k with lastCall := some s.timebase, callMade := true })
  else s

/-- CALL_START. -/
def execCallStart (t : TrunkId) (s : State) : Host.Outcome State Fault Refusal := whileRunning s (callStart t)

/-- A CALL frame ends: the call window runs for CALL_WINDOW. -/
def callEnd (t : TrunkId) (s : State) : State :=
  if s.sendingIn t .calling then startTimer t (s.tparams t).callWindow (endFrame t s) else s

/-- CALL_END. -/
def execCallEnd (t : TrunkId) (s : State) : Host.Outcome State Fault Refusal := whileRunning s (callEnd t)

/-! ### DELIVER (04 R68, R70, 05 R98) -/

/-- The turn mark and resync flag of a DELIVER to `dest`: the entry's at the frame's start, free values when the entry has gone
since the pick (log 11). -/
def deliverMarks (dest : Num) (s : State) : State × Bool × Bool :=
  match s.station dest with
  | some st => (s, st.outMark, st.resync)
  | none => (s.setFree (s.free + 1), Config.freeMark s.free, Config.freeResync s.free)

/-- The frame-started field of the head of a class becomes yes (07 R131). -/
def markStarted (t : TrunkId) (c : Cls) (s : State) : State :=
  match s.fifo (.trunk t) c with
  | [] => s
  | q :: _ => setHead (.trunk t) c { q with started := true } s

/-- The mark the transaction's DELIVER carries. -/
def setTxnMark (t : TrunkId) (m : Bool) (s : State) : State :=
  s.modTrunk t fun k => { k with txn := k.txn.map fun x => { x with mark := m } }

/-- A DELIVER frame is formed and starts. -/
def deliverStart (t : TrunkId) (s : State) : State :=
  if s.mayStart t .delivering then
    match (s.trunk t).txn.map Txn.kind with
    | some (.deliver _ c n _) =>
      match s.stored n with
      | some (k, b) =>
        let m := deliverMarks b.dest s
        startFrame t (deliverFrame k.source b m.2.1 m.2.2) (setTxnMark t m.2.1 (markStarted t c
          (countTrunk t (fun r => { r with delivers := countUp r.delivers }) m.1)))
      | none => s
    | some (.poll _) | some .call | some (.bcast _ _) | none => s
  else s

/-- DELIVER_START. -/
def execDeliverStart (t : TrunkId) (s : State) : Host.Outcome State Fault Refusal := whileRunning s (deliverStart t)

/-- A DELIVER frame ends: the answer timer runs for REPLY_TIMEOUT. -/
def deliverEnd (t : TrunkId) (s : State) : State :=
  if s.sendingIn t .delivering then startTimer t (s.tparams t).replyTimeout (endFrame t s) else s

/-- DELIVER_END. -/
def execDeliverEnd (t : TrunkId) (s : State) : Host.Outcome State Fault Refusal := whileRunning s (deliverEnd t)

/-! ### BCAST (04 R70, 05 R101) -/

/-- A BCAST frame is formed and starts. -/
def bcastStart (t : TrunkId) (s : State) : State :=
  if s.mayStart t .spreading then
    match (s.trunk t).txn.map Txn.kind with
    | some (.bcast _ n) =>
      match s.stored n with
      | some (k, b) =>
        startFrame t (bcastFrame k.source b) (countTrunk t (fun r => { r with spreads := countUp r.spreads }) s)
      | none => s
    | some (.poll _) | some .call | some (.deliver _ _ _ _) | none => s
  else s

/-- BCAST_START. -/
def execBcastStart (t : TrunkId) (s : State) : Host.Outcome State Fault Refusal := whileRunning s (bcastStart t)

/-- A BCAST frame ends: the spread gap runs for SETTLE_GAP. -/
def bcastEnd (t : TrunkId) (s : State) : State :=
  if s.sendingIn t .spreading then startTimer t (s.tparams t).settleGap (endFrame t s) else s

/-- BCAST_END. -/
def execBcastEnd (t : TrunkId) (s : State) : Host.Outcome State Fault Refusal := whileRunning s (bcastEnd t)

/-! ### RECEIPT and REFUSE (04 R71, 05 R96) -/

/-- A REFUSE is counted (10 R187). -/
def countRefusal (t : TrunkId) (c : Confirm) (s : State) : State :=
  match c.refusal with
  | none => s
  | some _ => countTrunk t (fun r => { r with refusalsSent := countUp r.refusalsSent }) s

/-- A RECEIPT or REFUSE frame starts. -/
def confirmStart (t : TrunkId) (s : State) : State :=
  if s.mayStart t .confirming then
    match (s.trunk t).txn.bind Txn.confirm with
    | some c => startFrame t c.frame (countRefusal t c s)
    | none => s
  else s

/-- CONFIRM_START. -/
def execConfirmStart (t : TrunkId) (s : State) : Host.Outcome State Fault Refusal := whileRunning s (confirmStart t)

/-- A RECEIPT or REFUSE frame ends: the transaction is over. -/
def confirmEnd (t : TrunkId) (s : State) : State :=
  if s.sendingIn t .confirming then finish (endTxn t (endFrame t s)) else s

/-- CONFIRM_END. -/
def execConfirmEnd (t : TrunkId) (s : State) : Host.Outcome State Fault Refusal := whileRunning s (confirmEnd t)

end Sys2Proof.Machine
end

