-- ==== Sys2Proof/Machine/Dispatch.lean ====
section
/-!
DEFINITION. The meaning of each command: one arm per row of the table.
-/

namespace Sys2Proof.Machine

def exec (i : Instr) (s : State) : Host.Outcome State Fault Refusal :=
  match i with
  | .powerOn straps flt => Sys2Proof.Machine.execPowerOn straps flt s
  | .resetLine straps flt => Sys2Proof.Machine.execResetLine straps flt s
  | .lineFault t => Sys2Proof.Machine.execLineFault t s
  | .lineSound t => Sys2Proof.Machine.execLineSound t s
  | .hello seq body => Sys2Proof.Machine.execHello seq body s
  | .set seq body => Sys2Proof.Machine.execSet seq body s
  | .get seq body => Sys2Proof.Machine.execGet seq body s
  | .trunk seq body => Sys2Proof.Machine.execTrunk seq body s
  | .pin seq body => Sys2Proof.Machine.execPin seq body s
  | .group seq body => Sys2Proof.Machine.execGroup seq body s
  | .forget seq body => Sys2Proof.Machine.execForget seq body s
  | .lookup seq body => Sys2Proof.Machine.execLookup seq body s
  | .walk seq body => Sys2Proof.Machine.execWalk seq body s
  | .sendHeader length => Sys2Proof.Machine.execSendHeader length s
  | .send seq body => Sys2Proof.Machine.execSend seq body s
  | .stats seq body => Sys2Proof.Machine.execStats seq body s
  | .flush seq body => Sys2Proof.Machine.execFlush seq body s
  | .restart seq body => Sys2Proof.Machine.execRestart seq body s
  | .unknownKindRequest kind seq body => Sys2Proof.Machine.execUnknownKindRequest kind seq body s
  | .credit seq body => Sys2Proof.Machine.execCredit seq body s
  | .noted seq body => Sys2Proof.Machine.execNoted seq body s
  | .hostBadMessage => Sys2Proof.Machine.execHostBadMessage s
  | .hostMessageAbandon => Sys2Proof.Machine.execHostMessageAbandon s
  | .replyEnd => Sys2Proof.Machine.execReplyEnd s
  | .noticeMessageEnd => Sys2Proof.Machine.execNoticeMessageEnd s
  | .telegramEnd => Sys2Proof.Machine.execTelegramEnd s
  | .noticeTimerExpiry => Sys2Proof.Machine.execNoticeTimerExpiry s
  | .agingExpiry => Sys2Proof.Machine.execAgingExpiry s
  | .callDue t => Sys2Proof.Machine.execCallDue t s
  | .pollStart t => Sys2Proof.Machine.execPollStart t s
  | .callStart t => Sys2Proof.Machine.execCallStart t s
  | .deliverStart t => Sys2Proof.Machine.execDeliverStart t s
  | .bcastStart t => Sys2Proof.Machine.execBcastStart t s
  | .confirmStart t => Sys2Proof.Machine.execConfirmStart t s
  | .pollEnd t => Sys2Proof.Machine.execPollEnd t s
  | .callEnd t => Sys2Proof.Machine.execCallEnd t s
  | .deliverEnd t => Sys2Proof.Machine.execDeliverEnd t s
  | .bcastEnd t => Sys2Proof.Machine.execBcastEnd t s
  | .confirmEnd t => Sys2Proof.Machine.execConfirmEnd t s
  | .frameStart t => Sys2Proof.Machine.execFrameStart t s
  | .dataHeader t h => Sys2Proof.Machine.execDataHeader t h s
  | .dataFrame t h dest cls data => Sys2Proof.Machine.execDataFrame t h dest cls data s
  | .nilFrame t h => Sys2Proof.Machine.execNilFrame t h s
  | .ackFrame t h => Sys2Proof.Machine.execAckFrame t h s
  | .busyFrame t h => Sys2Proof.Machine.execBusyFrame t h s
  | .joinFrame t h profile => Sys2Proof.Machine.execJoinFrame t h profile s
  | .failedFrame t => Sys2Proof.Machine.execFailedFrame t s
  | .truncatedFrame t => Sys2Proof.Machine.execTruncatedFrame t s
  | .fragmentEnd t => Sys2Proof.Machine.execFragmentEnd t s
  | .answerTimeout t => Sys2Proof.Machine.execAnswerTimeout t s
  | .callWindowExpiry t => Sys2Proof.Machine.execCallWindowExpiry t s
  | .settleGapEnd t => Sys2Proof.Machine.execSettleGapEnd t s
  | .spreadGapEnd t => Sys2Proof.Machine.execSpreadGapEnd t s
  | .quietPeriodEnd t => Sys2Proof.Machine.execQuietPeriodEnd t s
  | .resetAsserted => Sys2Proof.Machine.execResetAsserted s

end Sys2Proof.Machine
end

