-- ==== Sys2Proof/Machine/Step.lean ====
section
/-!
DEFINITION. One step: the command at the front of the queue, or a unit of time when none waits.
-/

namespace Sys2Proof.Machine

/-- With no command waiting, 100 µs pass (log 3); the timebase stands while the reset line is held (01 R7, 08 R147). -/
def tick (s : State) : State := if s.inReset then s else s.setClock (s.clock + 1)

/-- One step of the exchange. -/
def step (s : State) : Host.Outcome State Fault Refusal :=
  match s.pending with
  | [] => .next (tick s)
  | c :: rest => exec c (s.setPending rest)

/-- The state with the command that a word spells put at the front of the queue; unchanged when the word spells none. -/
def State.withFetchWord (s : State) (nbits w : Nat) : State :=
  match decodeTableWord nbits w with
  | some c => s.setPending (c :: s.pending)
  | none => s

end Sys2Proof.Machine
end

