-- ==== Sys2Proof/Safety.lean ====
section
/-!
DEFINITION. The device's laws, as predicates over the state: what claims about a run are stated in.
-/

namespace Sys2Proof.Machine

/-! ### Requests -/

/-- A request with this kind, sequence and body would be executed: the exchange runs, the body fits the length field, a reply
has room, the request is no replay and no RESTART is in progress (08 R151). -/
def State.takes (s : State) (kind seq : Byte) (body : List Byte) : Prop :=
  s.inReset = false ∧ body.length ≤ Config.maxBody ∧ s.link.replies.length < Config.replyRoom ∧
    s.isReplay seq (messageCheck kind seq body) = false ∧ s.link.restart = none

/-- The end of the event of a request executed from `u` on and answered with `m`: the reply cached and queued, a stall ended,
the woken controllers and the transmitter served (08 R152, R154, R161, 05 R93). -/
def answered (kind seq : Byte) (body : List Byte) (m : Message) (u : State) : State :=
  finish (resume (queueReply m (setCache ⟨seq, messageCheck kind seq body, some m⟩ u)))

/-! ### Laws -/

/-- Every value of the parameter table lies in its range, and STARTED notices are on (09 R167, R168, 10 R192). -/
def State.paramLaw (s : State) : Prop :=
  (∀ r : ParamRef, r.inRange (s.params.read r) = true) ∧ s.params.enable.started = 1

/-- The host credit lies from 0 to 16 (08 R156). -/
def State.creditLaw (s : State) : Prop := s.link.credit ≤ Config.maxCredit

/-- At most 32 notices are pending and at most 8 unacknowledged (08 R157, R158). -/
def State.noticeLaw (s : State) : Prop :=
  s.link.pendingNotices.length ≤ Config.noticeRoom ∧ s.link.unacked.length ≤ 8

/-- A controller has no transaction while its mode is CLOSED or its line state FAULTED (05 R83). -/
def State.txnLaw (s : State) : Prop := ∀ t, (s.trunk t).listening = false → (s.trunk t).txn = none

/-- The blocks of the tickets of a list (03 R41). -/
def blocksOf (ks : List Ticket) : Nat := (ks.map Ticket.blocks).sum

/-- The blocks of the tickets of a list that arrived at a port (03 R43). -/
def portBlocks (p : Port) (ks : List Ticket) : Nat := blocksOf (ks.filter fun k => k.port = p)

/-- The tickets in use have numbers from 0 to 159, all different, and stand in ascending order (03 R42). -/
def Store.ticketLaw (st : Store) : Prop :=
  st.tickets.Pairwise (fun a b => a.num < b.num) ∧ ∀ k ∈ st.tickets, k.num < Config.ticketCount

/-- The first and second law of the store: every block is free or a ticket's, and each port's occupancy is the blocks of the
tickets that arrived there (03 R41, R43). -/
def Store.blockLaw (st : Store) : Prop :=
  st.freeBlocks + blocksOf st.tickets = Config.storeBlocks ∧ ∀ p, st.occ.get p = portBlocks p st.tickets

/-- The laws of the store. -/
def State.storeLaw (s : State) : Prop := s.store.ticketLaw ∧ s.store.blockLaw

/-- How many entries of a FIFO name ticket `n`. -/
def namedIn (n : Nat) (q : List QEntry) : Nat := (q.filter fun x => x.ticket = n).length

/-- How many entries of an egress name ticket `n`. -/
def State.namedAt (s : State) (n : Nat) (e : Port) : Nat :=
  namedIn n (s.fifo e 0) + namedIn n (s.fifo e 1) + namedIn n (s.fifo e 2) + namedIn n (s.fifo e 3)

/-- How many queue entries name ticket `n`. -/
def State.named (s : State) (n : Nat) : Nat :=
  s.namedAt n (.trunk 0) + s.namedAt n (.trunk 1) + s.namedAt n (.trunk 2) + s.namedAt n (.trunk 3) + s.namedAt n .host

/-- The third law of the store: the references of a ticket are the queue entries that name it, at least one while it is STORED and
none while it is FILLING; no entry names a FREE ticket; a STORED ticket has a destination and a class from 0 to 3 (03 R42, R48,
R50). -/
def State.refLaw (s : State) : Prop :=
  ∀ n, (s.ticket n = none → s.named n = 0) ∧
    ∀ k, s.ticket n = some k → s.named n = k.refs ∧ (k.storedAt.isSome = true ↔ 0 < k.refs) ∧
      (k.storedAt.isSome = true → k.body.isSome = true)

/-- What a port holds of a grant names a FILLING ticket that arrived at that port: on a trunk during a POLL, from the station polled
(03 R44, R48). -/
def State.arrivalLaw (s : State) : Prop :=
  (∀ t x n, (s.trunk t).txn = some x → x.held = some (.granted n) →
    ∃ k, s.ticket n = some k ∧ k.storedAt = none ∧ k.port = .trunk t ∧ x.kind = .poll k.source) ∧
    ∀ m n, s.link.rx = .collecting m (some (.granted n)) →
      ∃ k, s.ticket n = some k ∧ k.storedAt = none ∧ k.port = .host

/-- The capacity laws of the directory: numbers all different and ascending, at most 192 entries, at most 64 PINNED and GROUP
(02 R13). -/
def State.dirLaw (s : State) : Prop :=
  s.dir.Pairwise (fun a b => a.num < b.num) ∧ s.dir.length ≤ Config.directoryCapacity ∧
    s.placedCount ≤ Config.pinnedCapacity

/-- Station entries have station numbers and group entries group numbers, and a POLL addresses a station number (01 R1, 02 R12,
05 R88). -/
def State.numberLaw (s : State) : Prop :=
  (∀ e ∈ s.dir,
    match e.body with
    | .station _ => isStationNumber e.num = true
    | .group _ => isGroupNumber e.num = true) ∧
    ∀ t x n, (s.trunk t).txn = some x → x.kind = .poll n → isStationNumber n = true

/-- The blocks of the STORED tickets of a list that arrived on a trunk from station `n` (02 R26). -/
def sourceBlocks (n : Num) (ks : List Ticket) : Nat :=
  blocksOf (ks.filter fun k => k.storedAt.isSome && k.port ≠ .host && k.source = n)

/-- The law of held counts: a station's held blocks are those of its STORED tickets, and the source of a STORED ticket that arrived
on a trunk has an entry; every ticket has a block (02 R26, 03 R42). -/
def State.heldLaw (s : State) : Prop :=
  (∀ n, ((s.station n).map Station.held).getD 0 = sourceBlocks n s.store.tickets) ∧
    ∀ k ∈ s.store.tickets, 1 ≤ k.blocks ∧
      (k.storedAt.isSome = true → k.port ≠ .host → (s.station k.source).isSome = true)

/-- No egress holds more than 64 entries (06 R127). -/
def State.egressLaw (s : State) : Prop := ∀ e, s.entries e ≤ 64

end Sys2Proof.Machine
end

