-- ==== Sys2Proof/WellFormed.lean ====
section
/-!
DEFINITION. Which commands can occur on the lines: the ranges that the operands' types do not already give.
-/

namespace Sys2Proof

/-- The kind codes of the thirteen requests (08 R148). -/
def requestKinds : List Byte :=
  [0x11, 0x12, 0x13, 0x14, 0x15, 0x16, 0x17, 0x18, 0x19, 0x1A, 0x1B, 0x1C, 0x1D]

/-- The kind codes of the two grants (08 R148). -/
def grantKinds : List Byte := [0x21, 0x22]

/-- A host message's body is at most 256 bytes (08 R148). -/
def bodyFits (body : List Byte) : Bool := body.length ≤ Config.maxBody

/-- A command that the lines can carry. -/
def Instr.wellFormed : Instr → Bool
  | .hello _ b | .set _ b | .get _ b | .trunk _ b | .pin _ b | .group _ b | .forget _ b
  | .lookup _ b | .walk _ b | .send _ b | .stats _ b | .flush _ b | .restart _ b
  | .credit _ b | .noted _ b => bodyFits b
  | .unknownKindRequest k _ b => bodyFits b && !requestKinds.contains k && !grantKinds.contains k
  | .sendHeader n => 2 ≤ n.toNat && n.toNat ≤ 258
  | .dataFrame _ _ _ _ d => d.length ≤ Config.maxData
  | .powerOn _ _ | .resetLine _ _ | .lineFault _ | .lineSound _ | .resetAsserted => true
  | .hostBadMessage | .hostMessageAbandon | .replyEnd | .noticeMessageEnd | .telegramEnd => true
  | .noticeTimerExpiry | .agingExpiry | .callDue _ => true
  | .pollStart _ | .callStart _ | .deliverStart _ | .bcastStart _ | .confirmStart _ => true
  | .pollEnd _ | .callEnd _ | .deliverEnd _ | .bcastEnd _ | .confirmEnd _ => true
  | .frameStart _ | .dataHeader _ _ | .nilFrame _ _ | .ackFrame _ _ | .busyFrame _ _ => true
  | .joinFrame _ _ _ | .failedFrame _ | .truncatedFrame _ | .fragmentEnd _ => true
  | .answerTimeout _ | .callWindowExpiry _ | .settleGapEnd _ | .spreadGapEnd _ => true
  | .quietPeriodEnd _ => true

end Sys2Proof
end

