-- ==== Sys2Proof/Certificates/Slice0/Obligations.lean ====
section
/-!
DEFINITION. The statements for the provers. Where a statement speaks of the end of an event it names `finish`, and of an executed request's
end `answered`; `FinishKeeps` says what `finish` leaves unchanged.
-/

section Slice0Statements

open Sys2Proof Sys2Proof.Machine

/-! ### Steps, the start of operation, the reset line -/

/-- A step takes the command at the front of the queue and gives its outcome on the queue's rest; on an empty queue one unit of
time passes while the exchange runs (the model's choice, log 3). -/
def Obligations.StepRunsFrontCommand : Prop :=
  (∀ (c : Instr) (rest : List Instr) (s : State), step (s.setPending (c :: rest)) = exec c (s.setPending rest)) ∧
    ∀ s : State, step (s.setPending []) =
      .next ((s.setPending []).setClock (if s.inReset then s.clock else s.clock + 1))

/-- POWER_ON and RESET_LINE from any state: the host link with its counters (NOTICES_SENT 1, for STARTED; the rest 0), the controllers,
the straps, the timebase, and the notices, STARTED already on HTX (that the transmitter takes it within the event is log 8; that the
LINE notices stand in ascending trunk is the model's choice, log 34; that the waiting commands stay is the model's). -/
def Obligations.StartOfOperation : Prop :=
  ∀ (straps : Straps) (flt : Quad Bool) (s : State) (c : Instr) (r : StartReason),
    (c = .powerOn straps flt ∧ r = .power) ∨ (c = .resetLine straps flt ∧ r = .resetLine) →
    ∃ t, exec c s = .next t ∧
      t.pending = s.pending ∧ t.inReset = false ∧ t.clock = 0 ∧ t.straps = straps ∧ t.fltPins = flt ∧
      (∀ u, (t.trunk u).mode = .closed ∧ (t.trunk u).line = (if flt.get u then .faulted else .sound) ∧
        (t.trunk u).activity = .idle ∧ (t.trunk u).pointer = none ∧ (t.trunk u).cycle = 0 ∧
        (t.trunk u).lastCall = none ∧ (t.trunk u).callMade = false ∧ (t.trunk u).burst = none ∧
        (t.trunk u).txn = none ∧ (t.trunk u).timer = none ∧ (t.trunk u).tx = none ∧ (t.trunk u).rx = .none ∧
        (t.trunk u).bitRate = 115200 ∧ (t.trunk u).counters = .zero) ∧
      t.link.rx = .hunting ∧ t.link.replies = [] ∧ t.link.cache = none ∧ t.link.restart = none ∧
      t.link.credit = 0 ∧ t.link.telegramSeq = 0 ∧ t.link.lost = 0 ∧ t.link.noticeTimer = none ∧
      t.link.stalled = false ∧ t.link.resendDue = .no ∧
      t.link.counters = ⟨0, 0, 0, 0, 0, 1, 0, 0, 0, 0, 0⟩ ∧
      t.link.tx = .notice ⟨0x61, 0, [0, 0x01, r.code]⟩ ∧
      t.link.unacked = [⟨⟨0, 0, .started r⟩, 0⟩] ∧
      t.link.pendingNotices.map Notice.fields =
        (([0, 1, 2, 3] : List TrunkId).filter fun u => flt.get u).map (fun u => .line u .faulted) ∧
      t.link.pendingNotices.map Notice.seq = ([1, 2, 3, 4] : List Byte).take t.link.pendingNotices.length ∧
      t.link.noticeSeq = byteOf (t.link.pendingNotices.length + 1) ∧ ∀ n ∈ t.link.pendingNotices, n.lost = 0

/-- R39: the directory, its counters and the aging timer after POWER_ON and RESET_LINE, and no directory notice. -/
def Obligations.DirectoryAfterReset : Prop :=
  ∀ (straps : Straps) (flt : Quad Bool) (s : State) (c : Instr),
    c = .powerOn straps flt ∨ c = .resetLine straps flt →
    ∃ t, exec c s = .next t ∧ t.dir = [] ∧ t.aging.start = t.timebase ∧ t.aging.due = t.timebase + 60 * 1000 ∧
      t.dirCounters.learned = 0 ∧ t.dirCounters.moved = 0 ∧ t.dirCounters.aged = 0 ∧
      t.dirCounters.conflicts = 0 ∧ t.dirCounters.fullRefusals = 0 ∧
      ∀ n ∈ t.link.pendingNotices ++ t.link.unacked.map Unacked.notice,
        n.fields.kind = .started ∨ n.fields.kind = .line

/-- R58: the store after POWER_ON and RESET_LINE, and no POOL notice. -/
def Obligations.StoreAfterReset : Prop :=
  ∀ (straps : Straps) (flt : Quad Bool) (s : State) (c : Instr),
    c = .powerOn straps flt ∨ c = .resetLine straps flt →
    ∃ t, exec c s = .next t ∧ (∀ n, t.ticket n = none) ∧ t.store.freeBlocks = 512 ∧ t.store.tickets.length = 0 ∧
      (∀ p, t.store.occ.get p = 0) ∧ t.store.low = false ∧ t.store.leastFree = 512 ∧ t.store.peakTickets = 0 ∧
      t.store.poolFails = 0 ∧ t.store.ticketFails = 0 ∧ t.store.portLimitFails = 0 ∧
      (∀ u, t.portCap (.trunk u) = 192) ∧ t.portCap .host = 128 ∧ t.params.poolLow = 64 ∧
      ∀ n ∈ t.link.pendingNotices ++ t.link.unacked.map Unacked.notice, n.fields.kind ≠ .pool

/-- R145: the egresses after POWER_ON and RESET_LINE. -/
def Obligations.EgressesAfterReset : Prop :=
  ∀ (straps : Straps) (flt : Quad Bool) (s : State) (c : Instr),
    c = .powerOn straps flt ∨ c = .resetLine straps flt →
    ∃ t, exec c s = .next t ∧
      (∀ e k, t.fifo e k = []) ∧ (∀ e, t.entries e = 0) ∧ (∀ e, t.inFlight e = none) ∧
      (∀ u k, (t.trunk u).egress.balance.get k = 0) ∧
      (∀ u, t.queueLimit (.trunk u) = 48) ∧ t.queueLimit .host = 48 ∧
      (∀ u, (t.tparams u).weight = ⟨1, 2, 3, 5⟩ ∧ (t.tparams u).express = 0) ∧
      ∀ u, (t.trunk u).counters.undelivered = 0 ∧ (t.trunk u).counters.expired = 0 ∧
        (t.trunk u).counters.rerouted = 0 ∧ (t.trunk u).counters.flushed = 0

/-- The defaults of the parameter table after POWER_ON and RESET_LINE. -/
def Obligations.ParameterDefaults : Prop :=
  ∀ (straps : Straps) (flt : Quad Bool) (s : State) (c : Instr),
    c = .powerOn straps flt ∨ c = .resetLine straps flt →
    ∃ t, exec c s = .next t ∧
      (∀ u, t.params.read (.trunk u .bitRate) = 115200 ∧ t.params.read (.trunk u .replyTimeout) = 30 ∧
        t.params.read (.trunk u .settleGap) = 10 ∧ t.params.read (.trunk u .callWindow) = 40 ∧
        t.params.read (.trunk u .callSpacing) = 250 ∧ t.params.read (.trunk u .learn) = 1 ∧
        t.params.read (.trunk u .retryLimit) = 3 ∧ t.params.read (.trunk u .deliveryBurst) = 2 ∧
        t.params.read (.trunk u (.weight 3)) = 5 ∧ t.params.read (.trunk u (.weight 2)) = 3 ∧
        t.params.read (.trunk u (.weight 1)) = 2 ∧ t.params.read (.trunk u (.weight 0)) = 1 ∧
        t.params.read (.trunk u .express) = 0 ∧ t.params.read (.trunk u .queueLimit) = 48 ∧
        t.params.read (.trunk u .portCap) = 192) ∧
      t.params.read .hostQueueLimit = 48 ∧ t.params.read .hostPortCap = 128 ∧
      t.params.read (.global .agingPeriod) = 60 ∧ t.params.read (.global .stationCap) = 24 ∧
      t.params.read (.global .unknownPolicy) = 0 ∧ t.params.read (.global .localTurn) = 1 ∧
      t.params.read (.global .broadcastToHost) = 1 ∧ t.params.read (.global .poolLow) = 64 ∧
      (∀ k, t.params.read (.global (.lifetime k)) = 0) ∧ t.params.read (.global .noticeWindow) = 4 ∧
      t.params.read (.global .noticeTimeout) = 250 ∧ ∀ k, t.params.read (.notice k) = 1

/-- RESET_ASSERTED: every output at its idle level, a RESTART ended, time standing still, the rest as it was (that a frame or message
being sent is cut within the event, and not at the end of its character, is the model's choice, log 20); while the line is held only the
fault pins are followed (the model's choice, log 18). -/
def Obligations.ResetLineHalts : Prop :=
  (∀ s : State, ∃ t, exec .resetAsserted s = .next t ∧ t.inReset = true ∧
    t.link = { s.link with tx := .free, restart := none } ∧
    (∀ u, t.trunk u = { s.trunk u with tx := none }) ∧
    t.pending = s.pending ∧ t.clock = s.clock ∧ t.straps = s.straps ∧ t.fltPins = s.fltPins ∧ t.params = s.params ∧
    t.dir = s.dir ∧ t.dirCounters = s.dirCounters ∧ t.aging = s.aging ∧ t.store = s.store ∧
    t.hostEgress = s.hostEgress ∧ step (t.setPending []) = .next (t.setPending [])) ∧
  ∀ (s : State), s.inReset = true →
    (∀ t, exec (.lineFault t) s = .next (s.setFltPins (s.fltPins.set t true))) ∧
    (∀ t, exec (.lineSound t) s = .next (s.setFltPins (s.fltPins.set t false))) ∧
    ∀ c : Instr, (∀ a f, c ≠ .powerOn a f) → (∀ a f, c ≠ .resetLine a f) → (∀ t, c ≠ .lineFault t) →
      (∀ t, c ≠ .lineSound t) → c ≠ .resetAsserted → exec c s = .next s

/-! ### The fault inputs -/

/-- A transaction abandoned: its reservation given back, its frame not going on (off the line within the event, where R103 lets the
character in progress end: the model's choice, log 20), its entry kept with its fields unless a FLUSH has marked it (then removed and
counted in FLUSHED; after a BCAST's end that count is the model's choice, log 33) or its BCAST has ended. LINE_FAULT abandons on a SOUND
line, raises LINE and reports to a RESTART that waits for the trunk; LINE_SOUND on a FAULTED line raises LINE and begins a quiet period
in SURVEY or CARRY; on a line already so, only the pin follows. -/
def Obligations.FaultInputs : Prop :=
  (∀ (t : TrunkId) (s : State),
    let w := giveBack ((s.trunk t).txn.bind Txn.held) s
    let abandons := fun (flushing : Bool) (u : State) => abandon t flushing s = u.modTrunk t fun k =>
      { k with
        activity := .idle, txn := none, timer := none, tx := none, burst := none
        rx := if k.rx = .answer then .stray else k.rx }
    abandons true w ∧ (s.inFlight (.trunk t) = none → abandons false w) ∧
    ∀ c q qs, s.inFlight (.trunk t) = some c → s.fifo (.trunk t) c = q :: qs →
      (q.flushMark = true → abandons false (flushedEntry t q (setFifo (.trunk t) c qs w))) ∧
      (q.flushMark = false → (s.trunk t).activity = .spreading → (s.trunk t).txn.map Txn.phase = some .ended →
        abandons false (dropRef q.ticket (setFifo (.trunk t) c qs w))) ∧
      (q.flushMark = false → ((s.trunk t).activity ≠ .spreading ∨ (s.trunk t).txn.map Txn.phase ≠ some .ended) →
        abandons false w)) ∧
  (∀ (t : TrunkId) (s : State), s.inReset = false →
    ((s.trunk t).line = .sound →
      ∃ u, exec (.lineFault t) s = .next (finish u) ∧ u.fltPins = s.fltPins.set t true ∧
        (u.trunk t).line = .faulted ∧ (u.trunk t).mode = (s.trunk t).mode ∧ (u.trunk t).activity = .idle ∧
        (u.trunk t).txn = none ∧ (u.trunk t).timer = none ∧ (u.trunk t).tx = none ∧ (u.trunk t).rx = .none ∧
        (u.trunk t).burst = none ∧ (∀ v, v ≠ t → (u.trunk v).line = (s.trunk v).line) ∧ u.params = s.params ∧
        u.clock = s.clock) ∧
    ((s.trunk t).line = .sound →
      ∀ v : State, v = raise (.line t .faulted) ((abandon t false (s.setFltPins (s.fltPins.set t true))).modTrunk t fun k =>
        { k with line := .faulted, rx := .none }) →
      ((∀ p, s.link.restart = some p → p.waiting.get t = false) → exec (.lineFault t) s = .next (finish v)) ∧
      (∀ p, s.link.restart = some p → p.waiting.get t = true → p.waiting.set t false ≠ Quad.all false →
        exec (.lineFault t) s =
          .next (finish (v.modLink fun l => { l with restart := some { p with waiting := p.waiting.set t false } }))) ∧
      (∀ p r, s.link.restart = some p → p.waiting.get t = true → p.waiting.set t false = Quad.all false →
        s.link.cache = some r →
        ∀ m : Message, m = ⟨0x41, r.seq, [byteOf p.figures.tickets] ++ bytes16 p.figures.entries ++
          [byteOf p.figures.dynamics, byteOf p.figures.notices]⟩ →
        exec (.lineFault t) s = .next (finish (wakeAll (raise (.started .restart) (v.modLink fun l =>
          { l with restart := none, cache := some { r with reply := some m }, replies := l.replies ++ [m] })))))) ∧
    ((s.trunk t).line = .faulted → exec (.lineFault t) s = .next (s.setFltPins (s.fltPins.set t true)))) ∧
  ∀ (t : TrunkId) (s : State), s.inReset = false →
    ((s.trunk t).line = .faulted → (s.trunk t).mode = .closed →
      exec (.lineSound t) s = .next (finish (raise (.line t .sound)
        ((s.setFltPins (s.fltPins.set t false)).modTrunk t fun k => { k with line := .sound })))) ∧
    ((s.trunk t).line = .faulted → (s.trunk t).mode ≠ .closed →
      exec (.lineSound t) s = .next (finish ((raise (.line t .sound)
        ((s.setFltPins (s.fltPins.set t false)).modTrunk t fun k => { k with line := .sound })).modTrunk t fun k =>
          { k with
            activity := .quiet
            timer := some (s.clock + ((s.tparams t).replyTimeout + (s.tparams t).settleGap)) }))) ∧
    ((s.trunk t).line = .sound → exec (.lineSound t) s = .next (s.setFltPins (s.fltPins.set t false)))

/-! ### Requests -/

/-- The judgement of a request before its execution: discarded with four replies waiting, answered from the cache as a replay,
answered BUSY during a RESTART; a SEND gives its reservation back in each case. -/
def Obligations.RequestJudgement : Prop :=
  ∀ (c : Instr) (kind seq : Byte) (body : List Byte) (s : State), c.asMessage = some (kind, seq, body) →
    c.wellFormed = true → kind ≠ 0x21 → kind ≠ 0x22 → s.inReset = false →
    let d := if kind = 0x1A then dropArrival (countIn s) else countIn s
    (Config.replyRoom ≤ s.link.replies.length → exec c s = .next (finish (resume (countBadIn d)))) ∧
    (s.link.replies.length < Config.replyRoom →
      ∀ r, s.link.cache = some r → r.seq = seq → r.check = messageCheck kind seq body →
        ∀ x : State, x = countLink (fun k => { k with replays := countUp k.replays }) d →
        (∀ m, r.reply = some m →
          exec c s = .next (finish (resume (x.modLink fun l => { l with replies := l.replies ++ [m] })))) ∧
        (r.reply = none → exec c s = .next (finish (resume x)))) ∧
    (s.link.replies.length < Config.replyRoom → s.isReplay seq (messageCheck kind seq body) = false →
      s.link.restart ≠ none →
      exec c s = .next (finish (resume
        ((countLink (fun k => { k with busyReplies := countUp k.busyReplies }) d).modLink fun l =>
          { l with replies := l.replies ++ [⟨0x42, seq, [0x09, 0x00]⟩] }))))

/-- UNKNOWN_KIND_REQUEST fails with UNKNOWN_KIND; a request whose body length its layout does not allow fails with BAD_BODY (all but
SEND). Nothing else changes. -/
def Obligations.MalformedRequestsFail : Prop :=
  (∀ (kind seq : Byte) (body : List Byte) (s : State), s.takes kind seq body →
    exec (.unknownKindRequest kind seq body) s =
      .next (answered kind seq body ⟨0x42, seq, [0x01, 0x00]⟩ (countIn s))) ∧
  ∀ (c : Instr) (kind seq : Byte) (body : List Byte) (s : State), c.asMessage = some (kind, seq, body) →
    s.takes kind seq body →
    (kind, body.length) ∉
      ([(0x11, 1), (0x12, 6), (0x13, 2), (0x14, 2), (0x15, 6), (0x16, 3), (0x17, 2), (0x18, 2), (0x19, 4), (0x1B, 2),
        (0x1C, 2), (0x1D, 1)] : List (Byte × Nat)) →
    kind ∈ ([0x11, 0x12, 0x13, 0x14, 0x15, 0x16, 0x17, 0x18, 0x19, 0x1B, 0x1C, 0x1D] : List Byte) →
    c.wellFormed = true →
    exec c s = .next (answered kind seq body ⟨0x42, seq, [0x02, 0x00]⟩ (countIn s))

/-- TRUNK, PIN, GROUP, WALK, STATS, FLUSH and RESTART fail with OUT_OF_RANGE for an operand outside its values, and leave the exchange
as it was. -/
def Obligations.OutOfRangeFails : Prop :=
  ∀ (seq a b : Byte) (s : State),
    let fails := fun (kind : Byte) (body : List Byte) (c : Instr) => s.takes kind seq body →
      exec c s = .next (answered kind seq body ⟨0x42, seq, [0x04, 0x00]⟩ (countIn s))
    (3 < a.toNat ∨ 2 < b.toNat → fails 0x14 [a, b] (.trunk seq [a, b])) ∧
    (∀ t cap pass profile : Byte, isStationNumber (numOfBytes a b) = false ∨ 3 < t.toNat ∨
        (cap ≠ 0 ∧ (cap.toNat < 4 ∨ 128 < cap.toNat)) ∨ 1 < pass.toNat →
      fails 0x15 [a, b, t, cap, pass, profile] (.pin seq [a, b, t, cap, pass, profile])) ∧
    (∀ m : Byte, isGroupNumber (numOfBytes a b) = false ∨ m = 0 ∨ 0x1F < m.toNat →
      fails 0x16 [a, b, m] (.group seq [a, b, m])) ∧
    (∀ n k : Byte, n = 0 ∨ 8 < n.toNat ∨ k = 0 ∨ 7 < k.toNat → fails 0x19 [a, b, n, k] (.walk seq [a, b, n, k])) ∧
    (6 < a.toNat ∨ 1 < b.toNat → fails 0x1B [a, b] (.stats seq [a, b])) ∧
    (4 < a.toNat ∨ b = 0 ∨ 0x0F < b.toNat → fails 0x1C [a, b] (.flush seq [a, b])) ∧
    (1 < a.toNat → fails 0x1D [a] (.restart seq [a]))

/-- R162: HELLO with and without the fresh flag, and its two failures. -/
def Obligations.HelloAnswers : Prop :=
  (∀ (seq : Byte) (body : List Byte) (s : State), s.takes 0x11 seq body → body.length ≠ 1 →
    exec (.hello seq body) s = .next (answered 0x11 seq body ⟨0x42, seq, [0x02, 0x00]⟩ (countIn s))) ∧
  ∀ (seq b : Byte) (s : State), s.takes 0x11 seq [b] →
    let figures := fun (u : State) (credit : Nat) =>
      ([0x4E, 0x34, 0x31, 0x36, 0x01, 4, 192, 64, byteOf u.dir.length, byteOf u.placedCount, 0x02, 0x00] : List Byte) ++
        bytes16 u.store.freeBlocks ++ [160, byteOf credit, 0] ++ bytes48 (u.clock / 10)
    (b = 0x00 → exec (.hello seq [b]) s =
      .next (answered 0x11 seq [b] ⟨0x41, seq, figures s s.link.credit⟩ (countIn s))) ∧
    (b = 0x01 → exec (.hello seq [b]) s =
      .next (answered 0x11 seq [b] ⟨0x41, seq, figures s 0⟩ ((countIn s).modLink fun l =>
        { l with
          pendingNotices := [], unacked := [], noticeSeq := 0, lost := 0, noticeTimer := none, resendDue := .no
          stalled := false, credit := 0, telegramSeq := 0 }))) ∧
    (1 < b.toNat → exec (.hello seq [b]) s =
      .next (answered 0x11 seq [b] ⟨0x42, seq, [0x04, 0x00]⟩ (countIn s)))

/-- SET writes one value of the table and no other, wakes the controllers it concerns, and answers with the value; its failures, in their
order, write nothing. The parameter table row by row: the id and scope of each parameter and its range, no other id or scope, what stands in
a SET's way, and the three parameters whose SET wakes controllers. -/
def Obligations.SetWritesOrFails : Prop :=
  let names := fun (id scope : Byte) (r : ParamRef) (range : Nat → Prop) =>
    paramRef id scope = some r ∧ ∀ v, r.inRange v = true ↔ range v
  let between := fun (lo hi v : Nat) => lo ≤ v ∧ v ≤ hi
  (∀ (seq id scope v3 v2 v1 v0 : Byte) (s : State) (r : ParamRef) (v : Nat),
    s.takes 0x12 seq [id, scope, v3, v2, v1, v0] → paramRef id scope = some r →
    v = ((v3.toNat * 256 + v2.toNat) * 256 + v1.toNat) * 256 + v0.toNat → r.inRange v = true →
    s.setObstacle r v = none →
    ∃ p : Params, p.read r = v ∧ (∀ q, q ≠ r → p.read q = s.params.read q) ∧
      exec (.set seq [id, scope, v3, v2, v1, v0]) s =
        .next (answered 0x12 seq [id, scope, v3, v2, v1, v0] ⟨0x41, seq, [id, scope, v3, v2, v1, v0]⟩
          (setWake r ((countIn s).setParams p)))) ∧
  (∀ (seq id scope v3 v2 v1 v0 : Byte) (s : State) (v : Nat),
    s.takes 0x12 seq [id, scope, v3, v2, v1, v0] →
    v = ((v3.toNat * 256 + v2.toNat) * 256 + v1.toNat) * 256 + v0.toNat →
    let fails := fun code : Byte => exec (.set seq [id, scope, v3, v2, v1, v0]) s =
      .next (answered 0x12 seq [id, scope, v3, v2, v1, v0] ⟨0x42, seq, [code, 0x00]⟩ (countIn s))
    (paramRef id scope = none → fails 0x03) ∧
    ∀ r, paramRef id scope = some r →
      (r.inRange v = false → fails 0x04) ∧
      (r = .notice .started → v = 0 → fails 0x07) ∧
      (∀ t, r = .trunk t .bitRate → r.inRange v = true → (s.trunk t).mode ≠ .closed → fails 0x05)) ∧
  ((∀ t : TrunkId, names 0x01 (byteOf t.val) (.trunk t .bitRate) fun v =>
      v = 19200 ∨ v = 57600 ∨ v = 115200 ∨ v = 250000 ∨ v = 500000 ∨ v = 1000000) ∧
    (∀ t : TrunkId, ∀ x ∈ ([(0x02, .replyTimeout, 1, 255), (0x03, .settleGap, 1, 50), (0x04, .callWindow, 1, 255),
        (0x05, .callSpacing, 10, 10000), (0x06, .learn, 0, 1), (0x07, .retryLimit, 0, 7), (0x08, .deliveryBurst, 1, 8),
        (0x09, .weight 3, 1, 15), (0x0A, .weight 2, 1, 15), (0x0B, .weight 1, 1, 15), (0x0C, .weight 0, 1, 15),
        (0x0D, .express, 0, 1), (0x0E, .queueLimit, 4, 64), (0x0F, .portCap, 16, 512)] :
          List (Byte × TrunkParam × Nat × Nat)),
      names x.1 (byteOf t.val) (.trunk t x.2.1) (between x.2.2.1 x.2.2.2)) ∧
    names 0x0E 0x04 .hostQueueLimit (between 4 64) ∧ names 0x0F 0x04 .hostPortCap (between 16 512) ∧
    (∀ x ∈ ([(0x20, .agingPeriod, 5, 3600), (0x21, .stationCap, 4, 128), (0x22, .unknownPolicy, 0, 2), (0x23, .localTurn, 0, 1),
        (0x24, .broadcastToHost, 0, 1), (0x25, .poolLow, 8, 256), (0x2A, .noticeWindow, 1, 8), (0x2B, .noticeTimeout, 50, 5000)] :
          List (Byte × GlobalParam × Nat × Nat)),
      names x.1 0xFF (.global x.2.1) (between x.2.2.1 x.2.2.2)) ∧
    (∀ x ∈ ([(0x26, 0), (0x27, 1), (0x28, 2), (0x29, 3)] : List (Byte × Cls)),
      names x.1 0xFF (.global (.lifetime x.2)) fun v => v = 0 ∨ (10 ≤ v ∧ v ≤ 60000)) ∧
    (∀ x ∈ ([(0x01, .started), (0x02, .joined), (0x03, .gone), (0x04, .station), (0x05, .conflict), (0x06, .directoryFull),
        (0x07, .undelivered), (0x08, .line), (0x09, .pool)] : List (Byte × NoticeKind)),
      names 0x2C x.1 (.notice x.2) (between 0 1)) ∧
    ∀ id scope : Byte, paramRef id scope ≠ none →
      (0x01 ≤ id.toNat ∧ id.toNat ≤ 0x0F ∧ scope.toNat ≤ 0x03) ∨ ((id = 0x0E ∨ id = 0x0F) ∧ scope = 0x04) ∨
        (0x20 ≤ id.toNat ∧ id.toNat ≤ 0x2B ∧ scope = 0xFF) ∨ (id = 0x2C ∧ 0x01 ≤ scope.toNat ∧ scope.toNat ≤ 0x09)) ∧
  ∀ (s : State) (r : ParamRef) (v : Nat),
    (s.setObstacle r v = none ↔
      ¬(r = .notice .started ∧ v = 0) ∧ ∀ t, r = .trunk t .bitRate → (s.trunk t).mode = .closed) ∧
    (∀ t, r = .trunk t .learn ∨ r = .trunk t .callSpacing → setWake r s = wake t s) ∧
    (r = .global .stationCap → setWake r s = wakeAll s) ∧
    ((∀ t, r ≠ .trunk t .learn) → (∀ t, r ≠ .trunk t .callSpacing) → r ≠ .global .stationCap → setWake r s = s)

/-- GET answers with the value held, or BAD_PARAM, and changes nothing; where each parameter's value is held. -/
def Obligations.GetReadsValue : Prop :=
  (∀ (seq id scope : Byte) (s : State), s.takes 0x13 seq [id, scope] →
    (∀ r, paramRef id scope = some r → exec (.get seq [id, scope]) s =
      .next (answered 0x13 seq [id, scope]
        ⟨0x41, seq, [id, scope] ++ bytes32 (BitVec.ofNat 32 (s.params.read r))⟩ (countIn s))) ∧
    (paramRef id scope = none → exec (.get seq [id, scope]) s =
      .next (answered 0x13 seq [id, scope] ⟨0x42, seq, [0x03, 0x00]⟩ (countIn s)))) ∧
  ∀ p : Params,
    (∀ t k, k = p.trunks.get t →
      p.read (.trunk t .bitRate) = k.bitRate ∧ p.read (.trunk t .replyTimeout) = k.replyTimeout ∧
        p.read (.trunk t .settleGap) = k.settleGap ∧ p.read (.trunk t .callWindow) = k.callWindow ∧
        p.read (.trunk t .callSpacing) = k.callSpacing ∧ p.read (.trunk t .learn) = k.learn ∧
        p.read (.trunk t .retryLimit) = k.retryLimit ∧ p.read (.trunk t .deliveryBurst) = k.deliveryBurst ∧
        (∀ c, p.read (.trunk t (.weight c)) = k.weight.get c) ∧ p.read (.trunk t .express) = k.express ∧
        p.read (.trunk t .queueLimit) = k.queueLimit ∧ p.read (.trunk t .portCap) = k.portCap) ∧
    p.read .hostQueueLimit = p.hostQueueLimit ∧ p.read .hostPortCap = p.hostPortCap ∧
    p.read (.global .agingPeriod) = p.agingPeriod ∧ p.read (.global .stationCap) = p.stationCap ∧
    p.read (.global .unknownPolicy) = p.unknownPolicy ∧ p.read (.global .localTurn) = p.localTurn ∧
    p.read (.global .broadcastToHost) = p.broadcastToHost ∧ p.read (.global .poolLow) = p.poolLow ∧
    (∀ c, p.read (.global (.lifetime c)) = p.lifetime.get c) ∧ p.read (.global .noticeWindow) = p.noticeWindow ∧
    p.read (.global .noticeTimeout) = p.noticeTimeout ∧ ∀ k, p.read (.notice k) = p.enable.get k

/-- TRUNK sets the mode by the change asked for: a closing (abandonment, flush, closing effects, a fresh silent controller), a change
between SURVEY and CARRY (with the quiet period of R106, and a flush on the way to SURVEY), an opening with the BIT_RATE in force and a
work decision at once, LEARN on or off, or nothing. The flush removes each entry as `flushedEntry` does, class 3 first; the closing
effects treat each station homed on the trunk, in ascending number. The codes of a trunk and of a mode. That a frame being sent is off
the line within the event of a closing, or of a change between SURVEY and CARRY that abandons its transaction, where R61 and R103 stop
it at the end of its character in progress, is the model's choice (log 20). -/
def Obligations.TrunkSetsMode : Prop :=
  ((∀ (b : Byte) (t : TrunkId), parseTrunk b = some t ↔ b = byteOf t.val) ∧ parseMode 0x00 = some .closed ∧
    parseMode 0x01 = some .survey ∧ parseMode 0x02 = some .carry) ∧
  (∀ (seq a b : Byte) (s : State) (t : TrunkId) (m : Mode), s.takes 0x14 seq [a, b] → parseTrunk a = some t →
    parseMode b = some m →
    let empties : Bool := ((s.trunk t).mode ≠ .closed && m = .closed) || ((s.trunk t).mode = .carry && m = .survey)
    ∃ u, exec (.trunk seq [a, b]) s =
        .next (answered 0x14 seq [a, b]
          ⟨0x41, seq, [a, b, byteOf (if empties then s.entries (.trunk t) else 0)]⟩ u) ∧
      (u.trunk t).mode = m ∧ (u.trunk t).line = (s.trunk t).line ∧ u.params = s.params ∧ u.clock = s.clock ∧
      (empties = true → ∀ c, u.fifo (.trunk t) c = []) ∧
      (m = .closed → (s.trunk t).mode ≠ .closed →
        (u.trunk t).activity = .idle ∧ (u.trunk t).txn = none ∧ (u.trunk t).tx = none ∧ (u.trunk t).rx = .none ∧
          (u.trunk t).timer = none ∧ (u.trunk t).burst = none ∧ (u.trunk t).pointer = none ∧
          (u.trunk t).cycle = 0) ∧
      (m = (s.trunk t).mode → u = countIn s)) ∧
  (∀ (seq a b : Byte) (s : State) (t : TrunkId) (m : Mode), s.takes 0x14 seq [a, b] → parseTrunk a = some t →
    parseMode b = some m → m ≠ (s.trunk t).mode →
    let done := fun (n : Nat) (u : State) => exec (.trunk seq [a, b]) s =
      .next (answered 0x14 seq [a, b] ⟨0x41, seq, [a, b, byteOf n]⟩ u)
    let turned := fun u : State => u.modTrunk t fun k => { k with mode := m }
    let quieted := fun u : State => u.modTrunk t fun k =>
      { k with
        activity := .quiet, timer := some (s.clock + ((s.tparams t).replyTimeout + (s.tparams t).settleGap)) }
    let flushed := fun u : State => (emptyEgress t u).1
    (m = .closed → done (s.entries (.trunk t)) ((closingEffects t (flushed (abandon t true (countIn s)))).modTrunk t fun k =>
      { k with
        mode := .closed, activity := .idle, txn := none, timer := none, tx := none, rx := .none, burst := none
        pointer := none, cycle := 0, callMade := false })) ∧
    ((s.trunk t).mode = .carry → m = .survey →
      ((s.trunk t).activity = .quiet → done (s.entries (.trunk t)) (turned (flushed (countIn s)))) ∧
      ((s.trunk t).activity ≠ .quiet → (s.trunk t).line = .sound →
        done (s.entries (.trunk t)) (quieted (turned (flushed (abandon t true (countIn s)))))) ∧
      ((s.trunk t).activity ≠ .quiet → (s.trunk t).line = .faulted →
        done (s.entries (.trunk t)) (turned (flushed (abandon t true (countIn s)))))) ∧
    ((s.trunk t).mode = .survey → m = .carry →
      ((s.trunk t).activity = .quiet → done 0 (turned (countIn s))) ∧
      ((s.trunk t).activity ≠ .quiet → (s.trunk t).line = .sound →
        done 0 (quieted (turned (abandon t false (countIn s))))) ∧
      ((s.trunk t).activity ≠ .quiet → (s.trunk t).line = .faulted → done 0 (turned (abandon t false (countIn s))))) ∧
    ((s.trunk t).mode = .closed →
      ∀ u : State, u = (countIn s).modTrunk t (fun k =>
        { k with
          mode := m, activity := .idle, pointer := none, cycle := 0, lastCall := none, callMade := false, burst := none
          bitRate := (s.tparams t).bitRate }) →
      done 0 (workDecision t u) ∧
      ((s.trunk t).txn = none → (s.trunk t).line = .faulted → done 0 u) ∧
      ((s.trunk t).txn = none → (s.trunk t).line = .sound → (s.tparams t).learn = 1 → done 0 (u.modTrunk t fun k =>
        { k with activity := .calling, txn := some ⟨.call, .waiting, false, none, none⟩, timer := none })))) ∧
  (∀ (t : TrunkId) (s : State),
    emptyEgress t s =
        (([3, 2, 1, 0] : List Cls).foldl (fun v c =>
          (v.fifo (.trunk t) c).foldl (fun w q => flushedEntry t q w) (setFifo (.trunk t) c [] v)) s, s.entries (.trunk t)) ∧
      ((emptyEgress t s).1.trunk t).counters.flushed = countUpBy (s.trunk t).counters.flushed (s.entries (.trunk t)) ∧
      ∀ n k, s.ticket n = some k → (emptyEgress t s).1.ticket n =
        if s.namedAt n (.trunk t) = 0 then some k
        else if k.refs ≤ s.namedAt n (.trunk t) then none else some { k with refs := k.refs - s.namedAt n (.trunk t) }) ∧
  ∀ (t : TrunkId) (s : State), s.dirLaw →
    (∀ n, (closingEffects t s).entry n = (s.entry n).bind fun e =>
      match e.body with
      | .group _ => some e
      | .station st =>
        if st.home = some t then
          match st.kind with
          | .dynamic _ _ _ =>
            if st.held = 0 then none else some ⟨n, .station { st with kind := .dynamic none false (some .closed) }⟩
          | .pinned _ _ _ => some ⟨n, .station { st with missed := 3, state := .silent }⟩
        else some e) ∧
    (closingEffects t s).link = ((s.dir.filterMap fun e =>
      match e.body with
      | .group _ => none
      | .station st =>
        if st.home = some t then
          match st.kind with
          | .dynamic _ _ _ => if st.held = 0 then some (.gone e.num .closed) else none
          | .pinned _ _ _ => if st.state = .active then some (.station e.num .silent) else none
        else none).foldl (fun v f => raise f v) s).link ∧
    (closingEffects t s).store = s.store ∧ (closingEffects t s).trunks = s.trunks ∧
    (closingEffects t s).hostEgress = s.hostEgress ∧ (closingEffects t s).params = s.params

/-- PIN creates, converts and re-pins; it fails with FULL where there is no place. The codes of a cap and of the survey pass. -/
def Obligations.PinEdits : Prop :=
  ((∀ (b : Byte) (c : Option Nat), parseCap b = some c ↔ (b = 0 ∧ c = none) ∨ (4 ≤ b.toNat ∧ b.toNat ≤ 128 ∧ c = some b.toNat)) ∧
    parseFlag 0x00 = some false ∧ parseFlag 0x01 = some true) ∧
  ∀ (seq hi lo a cb pb profile : Byte) (s : State) (home : TrunkId) (cap : Option Nat) (pass : Bool),
    s.takes 0x15 seq [hi, lo, a, cb, pb, profile] → isStationNumber (numOfBytes hi lo) = true →
    parseTrunk a = some home → parseCap cb = some cap → parseFlag pb = some pass →
    let n := numOfBytes hi lo
    let done := fun (code : Byte) (u : State) => exec (.pin seq [hi, lo, a, cb, pb, profile]) s =
      .next (answered 0x15 seq [hi, lo, a, cb, pb, profile] ⟨0x41, seq, [hi, lo, code]⟩ u)
    let full := exec (.pin seq [hi, lo, a, cb, pb, profile]) s =
      .next (answered 0x15 seq [hi, lo, a, cb, pb, profile] ⟨0x42, seq, [0x08, 0x00]⟩ (countIn s))
    (s.station n = none →
      (192 ≤ s.dir.length ∨ 64 ≤ s.placedCount → full) ∧
      (s.dir.length < 192 → s.placedCount < 64 →
        done 0x01 (wake home (putStation n ⟨.pinned home cap pass, .active, 0, 0, profile, none, false, true, 0, 0⟩
          (countIn s))))) ∧
    (∀ st old seen due, s.station n = some st → st.kind = .dynamic old seen due →
      (64 ≤ s.placedCount → full) ∧
      (s.placedCount < 64 → old = some home →
        done 0x02 (wake home (wakeHome old (putStation n
          { st with kind := .pinned home cap pass, profile := profile, state := .active, missed := 0 } (countIn s))))) ∧
      (s.placedCount < 64 → old ≠ some home →
        done 0x02 (wake home (wakeHome old (putStation n
          { st with
            kind := .pinned home cap pass, profile := profile, state := .active, missed := 0, inMark := none
            outMark := false, resync := true } (countIn s)))))) ∧
    (∀ st old ocap opass, s.station n = some st → st.kind = .pinned old ocap opass →
      (old = home → done 0x03 (wake home (wake old (putStation n
        { st with kind := .pinned home cap pass, profile := profile } (countIn s))))) ∧
      (old ≠ home → done 0x03 (wake home (wake old (putStation n
        { st with
          kind := .pinned home cap pass, profile := profile, state := .active, missed := 0, inMark := none
          outMark := false, resync := true } (countIn s))))))

/-- R36: GROUP creates an entry where the directory has room, and replaces a member set without a test of room; the last clause
reads the directory so written. The code of a member set. -/
def Obligations.GroupEdits : Prop :=
  (∀ (b : Byte) (m : Members), parseMembers b = some m ↔ b ≠ 0 ∧
    b = (if m.trunks.a0 then 1 else 0) + (if m.trunks.a1 then 2 else 0) + (if m.trunks.a2 then 4 else 0) +
      (if m.trunks.a3 then 8 else 0) + (if m.host then 16 else 0)) ∧
  ∀ (seq hi lo mb : Byte) (s : State) (m : Members), s.takes 0x16 seq [hi, lo, mb] →
    isGroupNumber (numOfBytes hi lo) = true → parseMembers mb = some m →
    let n := numOfBytes hi lo
    let done := fun code : Byte => exec (.group seq [hi, lo, mb]) s =
      .next (answered 0x16 seq [hi, lo, mb] ⟨0x41, seq, [hi, lo, code]⟩
        ((countIn s).setDir (putInto ⟨n, .group m⟩ s.dir)))
    (s.entry n = none → (192 ≤ s.dir.length ∨ 64 ≤ s.placedCount) →
      exec (.group seq [hi, lo, mb]) s =
        .next (answered 0x16 seq [hi, lo, mb] ⟨0x42, seq, [0x08, 0x00]⟩ (countIn s))) ∧
    (s.entry n = none → s.dir.length < 192 → s.placedCount < 64 → done 0x01) ∧
    (∀ old, s.entry n = some ⟨n, .group old⟩ → done 0x04) ∧
    ∀ k, ((countIn s).setDir (putInto ⟨n, .group m⟩ s.dir)).entry k = if k = n then some ⟨n, .group m⟩ else s.entry k

/-- FORGET removes a group and a station without blocks, defers a station with blocks, and fails with NOT_FOUND. -/
def Obligations.ForgetEdits : Prop :=
  ∀ (seq hi lo : Byte) (s : State), s.takes 0x17 seq [hi, lo] →
    let n := numOfBytes hi lo
    let done := fun (code : Byte) (u : State) => exec (.forget seq [hi, lo]) s =
      .next (answered 0x17 seq [hi, lo] ⟨0x41, seq, [hi, lo, code]⟩ u)
    (s.entry n = none → exec (.forget seq [hi, lo]) s =
      .next (answered 0x17 seq [hi, lo] ⟨0x42, seq, [0x06, 0x00]⟩ (countIn s))) ∧
    (∀ m, s.entry n = some ⟨n, .group m⟩ → done 0x05 (dropEntry n (countIn s))) ∧
    (∀ st, s.entry n = some ⟨n, .station st⟩ → st.held = 0 →
      done 0x05 (wakeHome st.home (raise (.gone n .forgotten) (dropEntry n (countIn s))))) ∧
    (∀ st, s.entry n = some ⟨n, .station st⟩ → st.held ≠ 0 →
      done 0x06 (wakeHome st.home
        (putStation n { st with kind := .dynamic none false (some .forgotten) } (countIn s))))

/-- R176: LOOKUP answers with the entry's record, or NOT_FOUND, and changes no entry; the record's 17 bytes for a group, a DYNAMIC and
a PINNED station (R175). -/
def Obligations.LookupAnswers : Prop :=
  (∀ (seq hi lo : Byte) (s : State), s.takes 0x18 seq [hi, lo] →
    (∀ e, s.entry (numOfBytes hi lo) = some e → e.record.length = 17 ∧ exec (.lookup seq [hi, lo]) s =
      .next (answered 0x18 seq [hi, lo] ⟨0x41, seq, e.record⟩ (countIn s))) ∧
    (s.entry (numOfBytes hi lo) = none → exec (.lookup seq [hi, lo]) s =
      .next (answered 0x18 seq [hi, lo] ⟨0x42, seq, [0x06, 0x00]⟩ (countIn s))) ∧
    (countIn s).dir = s.dir) ∧
  (∀ (n : Sys2Proof.Num) (m : Members), (DirEntry.mk n (.group m)).record = numBytes n ++ [0x02, 0x00,
    (if m.trunks.a0 then 1 else 0) + (if m.trunks.a1 then 2 else 0) + (if m.trunks.a2 then 4 else 0) +
      (if m.trunks.a3 then 8 else 0) + (if m.host then 16 else 0), 0, 0, 0, 0, 0, 0, 0, 0, 0, 0, 0, 0]) ∧
  ∀ (n : Sys2Proof.Num) (st : Station),
    let state : Byte := if st.state = .active then 0x00 else 0x01
    let marks : Byte := (if st.resync then 2 else 0) + (if st.outMark then 8 else 0) +
      (if st.inMark = some true then 48 else if st.inMark = some false then 16 else 0)
    let counts : List Byte := st.profile :: numBytes st.accepted ++ numBytes st.delivered
    (∀ home seen due, st.kind = .dynamic home seen due → (DirEntry.mk n (.station st)).record = numBytes n ++
      [0x00, (if home = none then 0xFF else byteOf ((home.map Fin.val).getD 0)), 0x00, state, (if seen then 1 else 0) + marks,
        (if due = none then 0x00 else if due = some .aged then 0x01 else if due = some .closed then 0x02 else 0x03),
        byteOf st.missed] ++ bytes16 st.held ++ 0x00 :: counts) ∧
    ∀ home cap pass, st.kind = .pinned home cap pass → (DirEntry.mk n (.station st)).record = numBytes n ++
      [0x01, byteOf home.val, 0x00, state, (if pass then 4 else 0) + marks, 0x00, byteOf st.missed] ++ bytes16 st.held ++
        byteOf (cap.getD 0) :: counts

/-- WALK lists the first entries of the selected kinds above the number, and says whether there are more. The code of a kind filter. -/
def Obligations.WalkAnswers : Prop :=
  (∀ (b : Byte) (f : KindFilter), parseFilter b = some f ↔ b ≠ 0 ∧
    b = (if f.dynamic then 1 else 0) + (if f.pinned then 2 else 0) + (if f.group then 4 else 0)) ∧
  ∀ (seq hi lo n k : Byte) (s : State) (f : KindFilter), s.takes 0x19 seq [hi, lo, n, k] → parseFilter k = some f →
    let es := s.dir.filter fun e =>
      (match e.body with
        | .group _ => f.group
        | .station st =>
          match st.kind with
          | .dynamic _ _ _ => f.dynamic
          | .pinned _ _ _ => f.pinned) && numOfBytes hi lo < e.num
    (1 ≤ n.toNat → n.toNat ≤ 8 → exec (.walk seq [hi, lo, n, k]) s =
      .next (answered 0x19 seq [hi, lo, n, k]
        ⟨0x41, seq, [if n.toNat < es.length then 0x01 else 0x00, byteOf (min n.toNat es.length)] ++
          (es.take n.toNat).flatMap DirEntry.record⟩ (countIn s))) ∧
    ((n.toNat = 0 ∨ 8 < n.toNat) → exec (.walk seq [hi, lo, n, k]) s =
      .next (answered 0x19 seq [hi, lo, n, k] ⟨0x42, seq, [0x04, 0x00]⟩ (countIn s)))

/-- SEND_HEADER asks the store for a reservation for HOST unless the length or a RESTART forbids it. -/
def Obligations.SendHeaderReserves : Prop :=
  ∀ (length : BitVec 16) (s : State), s.inReset = false → s.link.rx = .hunting → 2 ≤ length.toNat →
    length.toNat ≤ 258 →
    (5 ≤ length.toNat → length.toNat ≤ 245 → s.link.restart = none →
      exec (.sendHeader length) s =
        .next (finish ((reserve .host 0 (length.toNat - 5) s).1.modLink fun l =>
          { l with rx := .collecting (length.toNat - 2) (some (reserve .host 0 (length.toNat - 5) s).2) }))) ∧
    ((length.toNat < 5 ∨ 245 < length.toNat ∨ s.link.restart ≠ none) →
      exec (.sendHeader length) s =
        .next (s.modLink fun l => { l with rx := .collecting (length.toNat - 2) none }))

/-- SEND at its end, its reservation asked at the header (or now, where the header asked for none: the model's choice, log 12): refused
with the held reason; or, its bytes in the ticket, refused by routing with the reservation released first, or accepted: an entry at
the tail of the class on each egress needed, the ticket STORED now with as many references. BAD_BODY for a body of another length. -/
def Obligations.SendRouted : Prop :=
  ∀ (seq : Byte) (body : List Byte) (s : State), s.takes 0x1A seq body →
    (∀ hi lo cls data h v, body = hi :: lo :: cls :: data → data.length ≤ 240 →
      ∀ b : State, b = (countIn s).modLink (fun l => { l with rx := .hunting }) →
      ((s.link.rx = .collecting (data.length + 3) (some h) ∧ v = b) ∨
        ((s.link.rx = .hunting ∨ ∃ m, s.link.rx = .collecting m none) ∧ reserve .host 0 data.length b = (v, h))) →
      (∀ r, h = .failed r → exec (.send seq body) s = .next (answered 0x1A seq body ⟨0x42, seq, [0x0A, r.code]⟩ v)) ∧
      ∀ n u, h = .granted n → u = fillTicket n (numOfBytes hi lo) cls data v →
        (∀ r, u.route .host 0 (numOfBytes hi lo) cls = .error r → exec (.send seq body) s =
          .next (answered 0x1A seq body ⟨0x42, seq, [0x0A, r.code]⟩ (releaseFilling n u))) ∧
        ∀ c needs, u.route .host 0 (numOfBytes hi lo) cls = .ok (c, needs) →
          ∃ w, exec (.send seq body) s = .next (answered 0x1A seq body ⟨0x41, seq, [byteOf n]⟩
              (countLink (fun k => { k with telegramsIn := countUp k.telegramsIn }) w)) ∧
            (∀ x ∈ needs, w.fifo x.1 c = v.fifo x.1 c ++ [⟨n, x.2, 0, false, false⟩]) ∧
            (∀ e k, (k ≠ c ∨ e ∉ needs.map Prod.fst) → w.fifo e k = v.fifo e k) ∧
            (∀ k, v.ticket n = some k → w.ticket n = some
              { k with
                dest := some (numOfBytes hi lo), cls := some cls, data := data, refs := needs.length
                storedAt := some (s.clock / 10) }) ∧
            (∀ m, m ≠ n → w.ticket m = v.ticket m) ∧ w.store.freeBlocks = v.store.freeBlocks ∧ w.dir = v.dir ∧
            w.link = v.link ∧
            ∀ t, w.wakes.get t =
              (v.wakes.get t || ((v.trunk t).activity = .idle && (needs.map Prod.fst).contains (.trunk t)))) ∧
    ((body.length < 3 ∨ 243 < body.length) → exec (.send seq body) s =
      .next (answered 0x1A seq body ⟨0x42, seq, [0x02, 0x00]⟩ (dropArrival (countIn s))))

/-- STATS answers with a group's counters and figures, and clears the group when the flag is set; each group's code, its counters in their
order and its figures. -/
def Obligations.StatsAnswers : Prop :=
  ((∀ t : TrunkId, parseGroup (byteOf t.val) = some (.trunk t)) ∧ parseGroup 0x04 = some .host ∧
    parseGroup 0x05 = some .store ∧ parseGroup 0x06 = some .directory) ∧
  (∀ s : State,
    (∀ t c, c = (s.trunk t).counters →
      s.groupCounters (.trunk t) = [c.polls, c.dataIn, c.nilIn, c.calls, c.callsGarbled, c.joins, c.delivers, c.acks,
          c.busyIn, c.timeouts, c.badFrames, c.late, c.stray, c.repeats, c.refusalsSent, c.withheld, c.spreads, c.undelivered,
          c.expired, c.rerouted, c.flushed] ∧
        s.groupFigures (.trunk t) = []) ∧
    (∀ c, c = s.link.counters →
      s.groupCounters .host = [c.framesIn, c.framesOut, c.badFramesIn, c.replays, c.busyReplies, c.noticesSent,
          c.noticeResends, c.noticesLost, c.notedIgnored, c.telegramsOut, c.telegramsIn] ∧
        s.groupFigures .host = []) ∧
    (s.groupCounters .store = [s.store.poolFails, s.store.ticketFails, s.store.portLimitFails,
        BitVec.ofNat 32 s.store.leastFree, BitVec.ofNat 32 s.store.peakTickets] ∧
      s.groupFigures .store = bytes16 s.store.freeBlocks ++ bytes16 s.store.tickets.length) ∧
    s.groupCounters .directory = [s.dirCounters.learned, s.dirCounters.moved, s.dirCounters.aged, s.dirCounters.conflicts,
        s.dirCounters.fullRefusals] ∧
      s.groupFigures .directory = bytes16 s.dir.length ++ bytes16 (s.dir.filter fun e =>
        match e.body with
        | .group _ => true
        | .station st =>
          match st.kind with
          | .pinned _ _ _ => true
          | .dynamic _ _ _ => false).length) ∧
  ∀ (seq a b : Byte) (s : State) (g : Group), s.takes 0x1B seq [a, b] → parseGroup a = some g →
    let body := [a, b, byteOf ((countIn s).groupCounters g).length] ++
      ((countIn s).groupCounters g).flatMap bytes32 ++ s.groupFigures g
    (b = 0x00 → exec (.stats seq [a, b]) s = .next (answered 0x1B seq [a, b] ⟨0x41, seq, body⟩ (countIn s))) ∧
    (b = 0x01 → exec (.stats seq [a, b]) s =
      .next (answered 0x1B seq [a, b] ⟨0x41, seq, body⟩ (clearGroup g (countIn s)))) ∧
    (clearGroup g s).groupCounters g =
      (match g with
        | .trunk _ => List.replicate 21 0
        | .host => List.replicate 11 0
        | .store => [0, 0, 0, BitVec.ofNat 32 s.store.freeBlocks, BitVec.ofNat 32 s.store.tickets.length]
        | .directory => List.replicate 5 0) ∧
    ∀ h, h ≠ g → (clearGroup g s).groupCounters h = s.groupCounters h

/-- FLUSH empties the named classes of an egress, class 3 first and from the head, but for an entry in flight, which it marks, and
answers with the count. On a trunk each entry removed is counted in FLUSHED, a DELIVER whose frame has started sets its destination's
resync pending, and the entry's reference is dropped; at HOST the reference is. What is in flight is the head that a DELIVER, a BCAST
or a TELEGRAM message serves. The codes of an egress and of a class set. -/
def Obligations.FlushRemoves : Prop :=
  ((∀ t : TrunkId, parsePort (byteOf t.val) = some (.trunk t)) ∧ parsePort 0x04 = some .host ∧
    ∀ (b : Byte) (c : Quad Bool), parseClasses b = some c ↔ b ≠ 0 ∧
      b = (if c.a0 then 1 else 0) + (if c.a1 then 2 else 0) + (if c.a2 then 4 else 0) + (if c.a3 then 8 else 0)) ∧
  (∀ (seq a b : Byte) (s : State) (e : Port) (set : Quad Bool), s.takes 0x1C seq [a, b] → parsePort a = some e →
    parseClasses b = some set →
    let kept := fun c : Cls =>
      if s.inFlight e = some c then ((s.fifo e c).take 1).map fun q => { q with flushMark := true } else []
    let gone := fun c : Cls => if s.inFlight e = some c then (s.fifo e c).tail else s.fifo e c
    let removes := fun (v : State) (q : QEntry) =>
      match e with
      | .trunk t => flushedEntry t q v
      | .host => dropRef q.ticket v
    let u := (([3, 2, 1, 0] : List Cls).filter fun c => set.get c && s.fifo e c ≠ []).foldl
      (fun v c => (gone c).foldl removes (setFifo e c (kept c) v)) (countIn s)
    let sum := fun f : Cls → Nat => (([3, 2, 1, 0] : List Cls).map fun c => if set.get c then f c else 0).sum
    exec (.flush seq [a, b]) s =
        .next (answered 0x1C seq [a, b] ⟨0x41, seq, [a, byteOf (sum fun c => (s.fifo e c).length)]⟩ u) ∧
      (∀ c, set.get c = true → s.inFlight e ≠ some c → u.fifo e c = []) ∧
      (∀ c q qs, set.get c = true → s.inFlight e = some c → s.fifo e c = q :: qs →
        u.fifo e c = [{ q with flushMark := true }]) ∧
      (∀ c, set.get c = false → u.fifo e c = s.fifo e c) ∧
      (∀ f c, f ≠ e → u.fifo f c = s.fifo f c) ∧ u.params = s.params ∧ u.clock = s.clock ∧
      (∀ t, e = .trunk t → (u.trunk t).counters.flushed =
        countUpBy (s.trunk t).counters.flushed (sum fun c => (gone c).length)) ∧
      ∀ n k, s.ticket n = some k → u.ticket n =
        if (sum fun c => namedIn n (gone c)) = 0 then some k
        else if k.refs ≤ (sum fun c => namedIn n (gone c)) then none
        else some { k with refs := k.refs - (sum fun c => namedIn n (gone c)) }) ∧
  (∀ (t : TrunkId) (q : QEntry) (s : State),
    let f := countTrunk t (fun c => { c with flushed := countUp c.flushed }) s
    (∀ k b, q.form = some .deliver → q.started = true → s.stored q.ticket = some (k, b) →
      flushedEntry t q s = dropRef q.ticket (setResync t b.dest f)) ∧
    (q.form ≠ some .deliver ∨ q.started = false ∨ s.stored q.ticket = none → flushedEntry t q s = dropRef q.ticket f)) ∧
  (∀ (t : TrunkId) (n : Sys2Proof.Num) (s : State),
    (∀ st, s.station n = some st → st.home = some t → setResync t n s = putStation n { st with resync := true } s) ∧
    ((∀ st, s.station n = some st → st.home ≠ some t) → setResync t n s = s)) ∧
  ∀ (s : State) (c : Cls),
    (∀ t, s.inFlight (.trunk t) = some c ↔ ∃ x, (s.trunk t).txn = some x ∧
      (((s.trunk t).activity = .delivering ∧ ∃ d n a, x.kind = .deliver d c n a) ∨
        ((s.trunk t).activity = .spreading ∧ ∃ n, x.kind = .bcast c n))) ∧
    (s.inFlight .host = some c ↔ ∃ m, s.link.tx = .telegram m (some c))

/-- RESTART at its taking: the store, the egresses, the directory (PINNED entries with fresh marks, GROUP entries as they were), the
controllers, the host link with its notice sequence kept, and the counters: each trunk's removed entries in FLUSHED, or every counter
cleared when the flag asks for it. That a frame being sent is off the line within the taking, where R103 lets its character in progress
end, is the model's choice (log 20). -/
def Obligations.RestartTaken : Prop :=
  ∀ (seq b : Byte) (s : State), s.takes 0x1D seq [b] → (b = 0x00 ∨ b = 0x01) →
    let queued := s.entries (.trunk 0) + s.entries (.trunk 1) + s.entries (.trunk 2) + s.entries (.trunk 3) + s.entries .host
    ∃ u, exec (.restart seq [b]) s = .next (finish (resume u)) ∧
      u.store.tickets = [] ∧ u.store.freeBlocks = 512 ∧ (∀ p, u.store.occ.get p = 0) ∧ u.store.low = false ∧
      (∀ e c, u.fifo e c = []) ∧ (∀ t c, (u.trunk t).egress.balance.get c = 0) ∧
      (u.dir = s.dir.filterMap fun e =>
        match e.body with
        | .group _ => some e
        | .station st =>
          match st.kind with
          | .dynamic _ _ _ => none
          | .pinned _ _ _ => some ⟨e.num, .station
              { st with
                state := .active, missed := 0, held := 0, inMark := none, outMark := false, resync := true }⟩) ∧
      u.aging = ⟨s.timebase, s.params.agingPeriod * 1000⟩ ∧ u.params = s.params ∧ u.clock = s.clock ∧
      (∀ t, (u.trunk t).mode = (s.trunk t).mode ∧ (u.trunk t).line = (s.trunk t).line ∧ (u.trunk t).txn = none ∧
        (u.trunk t).pointer = none ∧ (u.trunk t).cycle = 0 ∧ (u.trunk t).lastCall = none ∧ (u.trunk t).burst = none ∧
        (u.trunk t).callMade = false ∧ (u.trunk t).tx = none ∧
        (u.trunk t).rx = (if (s.trunk t).rx = .answer then .stray else (s.trunk t).rx) ∧
        (u.trunk t).activity = (if (s.trunk t).listening then .quiet else .idle) ∧
        ((s.trunk t).listening = true →
          (u.trunk t).timer = some (s.clock + ((s.tparams t).replyTimeout + (s.tparams t).settleGap)))) ∧
      u.link.rx = .hunting ∧ (∀ m c, s.link.tx = .telegram m c → u.link.tx = .telegram m none) ∧
      u.link.credit = 0 ∧ u.link.telegramSeq = 0 ∧ u.link.unacked = [] ∧ u.link.noticeTimer = none ∧
      u.link.stalled = false ∧ u.link.resendDue = .no ∧
      (b = 0x00 →
        (∀ t, (u.trunk t).counters =
          { (s.trunk t).counters with
            flushed := countUpBy (s.trunk t).counters.flushed (s.entries (.trunk t)) }) ∧
          u.link.counters = (countIn s).link.counters ∧ u.dirCounters = s.dirCounters ∧
          u.store.poolFails = s.store.poolFails ∧ u.store.ticketFails = s.store.ticketFails ∧
          u.store.portLimitFails = s.store.portLimitFails ∧ u.store.leastFree = s.store.leastFree ∧
          u.store.peakTickets = s.store.peakTickets) ∧
      (b = 0x01 →
        (∀ t, (u.trunk t).counters.list = List.replicate 21 0) ∧ u.link.counters.list = List.replicate 11 0 ∧
          u.dirCounters.list = List.replicate 5 0 ∧ u.store.list = [0, 0, 0, 512, 0]) ∧
      (∀ t, (s.trunk t).listening = true →
        u.link.replies = s.link.replies ∧ u.link.pendingNotices = [] ∧ u.link.lost = 0 ∧
          u.link.noticeSeq = s.link.noticeSeq ∧
          u.link.cache = some ⟨seq, messageCheck 0x1D seq [b], none⟩ ∧
          u.link.restart = some
            ⟨⟨s.store.tickets.length, queued, s.dir.length - s.placedCount,
              s.link.pendingNotices.length + s.link.unacked.length⟩, ⟨(s.trunk 0).listening, (s.trunk 1).listening,
              (s.trunk 2).listening, (s.trunk 3).listening⟩⟩) ∧
      ((∀ t, (s.trunk t).listening = false) →
        u.link.restart = none ∧ u.link.pendingNotices = [⟨s.link.noticeSeq, 0, .started .restart⟩] ∧
          u.link.noticeSeq = s.link.noticeSeq + 1 ∧
          u.link.replies = s.link.replies ++ [⟨0x41, seq,
            [byteOf s.store.tickets.length] ++ bytes16 queued ++
              [byteOf (s.dir.length - s.placedCount),
                byteOf (s.link.pendingNotices.length + s.link.unacked.length)]⟩])

/-! ### Grants and the other events of the host link -/

/-- CREDIT raises the credit by n, up to 16; NOTED acknowledges the notice named and every older one; a bad body or value is ignored and
counted, and so is a NOTED of a notice that is not unacknowledged. After each, a stall ends: the oldest unacknowledged notice counts
its resends anew and its resend is due. -/
def Obligations.GrantsTakeEffect : Prop :=
  (∀ (seq : Byte) (body : List Byte) (s : State), s.inReset = false → body.length ≤ 256 →
    (∀ n, body = [n] → 1 ≤ n.toNat → n.toNat ≤ 16 →
      exec (.credit seq body) s = .next (finish (resume ((countIn s).modLink fun l =>
        { l with credit := min 16 (l.credit + n.toNat) })))) ∧
    ((∀ n, body = [n] → n.toNat = 0 ∨ 16 < n.toNat) →
      exec (.credit seq body) s = .next (finish (resume (countBadIn (countIn s)))))) ∧
  (∀ (seq : Byte) (s : State), s.inReset = false →
    (∀ n older x newer, s.link.unacked = older ++ x :: newer → x.notice.seq = n →
      (∀ y ∈ older, y.notice.seq ≠ n) →
      exec (.noted seq [n]) s = .next (finish (resume ((countIn s).modLink fun l =>
        { l with
          unacked := newer
          resendDue := .no
          noticeTimer :=
            if newer = [] ∨ l.stalled = true then none else some ⟨s.timebase, s.params.noticeTimeout⟩ })))) ∧
    (∀ n, (∀ y ∈ s.link.unacked, y.notice.seq ≠ n) →
      exec (.noted seq [n]) s = .next (finish (resume
        (countLink (fun c => { c with notedIgnored := countUp c.notedIgnored }) (countIn s))))) ∧
    ∀ body, body.length ≠ 1 → body.length ≤ 256 →
      exec (.noted seq body) s = .next (finish (resume (countBadIn (countIn s))))) ∧
  ∀ s : State,
    (s.link.stalled = false → resume s = s) ∧
    (s.link.stalled = true → s.link.unacked = [] → resume s = s.modLink fun l => { l with stalled := false }) ∧
    ∀ x xs, s.link.stalled = true → s.link.unacked = x :: xs → resume s = s.modLink fun l =>
      { l with stalled := false, unacked := { x with resends := 0 } :: xs, resendDue := .afterStall }

/-- HOST_BAD_MESSAGE and HOST_MESSAGE_ABANDON: counted, a SEND's reservation given back, the receiver hunting, a stall kept. -/
def Obligations.SpoiledMessageDiscarded : Prop :=
  ∀ (s : State) (c : Instr), c = .hostBadMessage ∨ c = .hostMessageAbandon → s.inReset = false →
    (s.link.rx = .hunting → exec c s = .next (finish (countBadIn s))) ∧
    (∀ n r, s.link.rx = .collecting n (some (.failed r)) ∨ s.link.rx = .collecting n none →
      exec c s = .next (finish (countBadIn (s.modLink fun l => { l with rx := .hunting })))) ∧
    (∀ n k x, s.link.rx = .collecting n (some (.granted k)) → s.ticket k = some x →
      ∃ u, exec c s = .next (finish u) ∧ u.link.rx = .hunting ∧ u.link.stalled = s.link.stalled ∧
        u.link.counters.badFramesIn = countUp s.link.counters.badFramesIn ∧ u.ticket k = none ∧
        (∀ m, m ≠ k → u.ticket m = s.ticket m) ∧ u.store.freeBlocks = s.store.freeBlocks + x.blocks ∧
        u.store.occ.get x.port = s.store.occ.get x.port - x.blocks ∧
        (∀ p, p ≠ x.port → u.store.occ.get p = s.store.occ.get p) ∧
        u.store.low = (s.store.low && u.store.freeBlocks ≤ s.params.poolLow + 32) ∧ u.trunks = s.trunks ∧
        u.hostEgress = s.hostEgress ∧ u.dir = s.dir ∧ u.params = s.params ∧ u.clock = s.clock)

/-- REPLY_END, NOTICE_MESSAGE_END and TELEGRAM_END. -/
def Obligations.MessagesEnd : Prop :=
  ∀ (s : State) (m : Message), s.inReset = false →
    let u := (s.modLink fun l => { l with tx := .free }).modLink fun l =>
      { l with counters := { l.counters with framesOut := countUp l.counters.framesOut } }
    (s.link.tx = .reply m → exec .replyEnd s = .next (finish u)) ∧
    (s.link.tx = .notice m → s.link.noticeTimer = none → s.link.unacked ≠ [] → s.link.stalled = false →
      exec .noticeMessageEnd s = .next (finish (u.modLink fun l =>
        { l with noticeTimer := some ⟨s.timebase, s.params.noticeTimeout⟩ }))) ∧
    (s.link.tx = .notice m → (s.link.noticeTimer ≠ none ∨ s.link.unacked = [] ∨ s.link.stalled = true) →
      exec .noticeMessageEnd s = .next (finish u)) ∧
    (∀ c q qs, s.link.tx = .telegram m (some c) → s.fifo .host c = q :: qs →
      exec .telegramEnd s = .next (finish (dropRef q.ticket (setFifo .host c qs
        (countLink (fun k => { k with telegramsOut := countUp k.telegramsOut }) u))))) ∧
    (s.link.tx = .telegram m none →
      exec .telegramEnd s =
        .next (finish (countLink (fun k => { k with telegramsOut := countUp k.telegramsOut }) u)))

/-- NOTICE_TIMER_EXPIRY: a resend of the oldest notice becomes due, or, after three resends, the channel stalls. That the clock is brought
to the moment the timer runs out is the model's choice (log 4), and so is that a resend which ends a stall and has not started becomes one
that raises the resend count (log 38). -/
def Obligations.NoticeTimerRunsOut : Prop :=
  ∀ (s : State) (m : MsTimer) (x : Unacked) (xs : List Unacked), s.inReset = false → s.link.noticeTimer = some m →
    s.link.unacked = x :: xs →
    ∀ u : State, u = (s.setClock (max s.clock ((m.start + m.length) * 10))).modLink
      (fun l => { l with noticeTimer := none }) →
    (x.resends < 3 → exec .noticeTimerExpiry s =
      .next (finish (u.modLink fun l => { l with resendDue := .afterTimeout }))) ∧
    (3 ≤ x.resends → exec .noticeTimerExpiry s = .next (finish (u.modLink fun l => { l with stalled := true })))

/-- AGING_EXPIRY: the next period begins where this one ended (the model's reading, log 24), and every entry is treated by its seen mark
and held blocks; each entry removed raises GONE with cause AGED, in ascending number, counts in AGED and wakes its home's controller.
That the clock is brought to the moment the period ends is the model's choice (log 4). -/
def Obligations.AgingScans : Prop :=
  ∀ s : State, s.inReset = false → s.dirLaw →
    let gone := s.dir.filter fun e =>
      match e.body with
      | .group _ => false
      | .station st =>
        match st.kind with
        | .pinned _ _ _ => false
        | .dynamic _ seen _ => !seen && decide (st.held = 0)
    ∃ u, exec .agingExpiry s = .next (finish u) ∧
      u.aging = ⟨s.aging.due, s.params.agingPeriod * 1000⟩ ∧ u.clock = max s.clock (s.aging.due * 10) ∧
      u.store = s.store ∧ (∀ e c, u.fifo e c = s.fifo e c) ∧ u.trunks = s.trunks ∧ u.params = s.params ∧
      u.link = (gone.foldl (fun v e => raise (.gone e.num .aged) v) s).link ∧
      u.dirCounters = { s.dirCounters with aged := countUpBy s.dirCounters.aged gone.length } ∧
      (∀ t, u.wakes.get t = (s.wakes.get t || ((s.trunk t).activity = .idle && gone.any fun e =>
        match e.body with
        | .group _ => false
        | .station st => st.home = some t))) ∧
      ∀ n, u.entry n = (s.entry n).bind fun e =>
        match e.body with
        | .group _ => some e
        | .station st =>
          match st.kind with
          | .pinned _ _ _ => some e
          | .dynamic home seen due =>
            if seen then some ⟨n, .station { st with kind := .dynamic home false due }⟩
            else if st.held = 0 then none
            else if due = none then some ⟨n, .station { st with kind := .dynamic home false (some .aged) }⟩
            else some e

/-! ### Frames the exchange sends -/

/-- POLL_START, CALL_START, CONFIRM_START and BCAST_START: the frame on the line, the count, for a CALL the last-call time; a BCAST
carries the telegram's own destination. Nothing else changes. -/
def Obligations.FramesStart : Prop :=
  (∀ (t : TrunkId) (s : State) (x : Txn), s.inReset = false → (s.trunk t).listening = true → (s.trunk t).tx = none →
    (s.trunk t).rx = .none → (s.trunk t).txn = some x → x.phase = .waiting →
    (∀ n, (s.trunk t).activity = .polling → x.kind = .poll n →
      exec (.pollStart t) s = .next (s.modTrunk t fun k =>
        { k with
          tx := some ⟨n, .poll, false, false, []⟩
          txn := some { x with phase := .sending }
          counters := { k.counters with polls := countUp k.counters.polls } })) ∧
    ((s.trunk t).activity = .calling →
      exec (.callStart t) s = .next (s.modTrunk t fun k =>
        { k with
          tx := some ⟨0, .call, false, false, []⟩
          txn := some { x with phase := .sending }
          lastCall := some s.timebase
          callMade := true
          counters := { k.counters with calls := countUp k.counters.calls } })) ∧
    (∀ n m, (s.trunk t).activity = .confirming → x.confirm = some ⟨n, m, none⟩ →
      exec (.confirmStart t) s = .next (s.modTrunk t fun k =>
        { k with tx := some ⟨n, .receipt, m, false, []⟩, txn := some { x with phase := .sending } })) ∧
    (∀ n m r, (s.trunk t).activity = .confirming → x.confirm = some ⟨n, m, some r⟩ →
      exec (.confirmStart t) s = .next (s.modTrunk t fun k =>
        { k with
          tx := some ⟨n, .refuse, m, false, [r.code]⟩
          txn := some { x with phase := .sending }
          counters := { k.counters with refusalsSent := countUp k.counters.refusalsSent } }))) ∧
  ∀ (t : TrunkId) (s : State) (x : Txn) (c : Cls) (n : Nat) (k : Ticket) (b : TicketBody), s.inReset = false →
    (s.trunk t).listening = true → (s.trunk t).tx = none → (s.trunk t).rx = .none →
    (s.trunk t).activity = .spreading → (s.trunk t).txn = some x → x.phase = .waiting → x.kind = .bcast c n →
    s.stored n = some (k, b) →
    exec (.bcastStart t) s = .next (s.modTrunk t fun w =>
      { w with
        tx := some ⟨b.dest, .bcast, false, false, numBytes k.source ++ byteOf b.cls.val :: b.data⟩
        txn := some { x with phase := .sending }
        counters := { w.counters with spreads := countUp w.counters.spreads } })

/-- DELIVER_START: the frame is formed from the ticket and from the entry's marks as they stand, the entry's frame-started field
becomes yes, and nothing else changes; with the destination's entry gone the two marks are free values (log 11). -/
def Obligations.DeliverStarts : Prop :=
  ∀ (t : TrunkId) (s : State) (x : Txn) (d : Sys2Proof.Num) (c : Cls) (n a : Nat) (k : Ticket) (b : TicketBody) (q : QEntry)
    (qs : List QEntry), s.inReset = false → (s.trunk t).listening = true → (s.trunk t).tx = none →
    (s.trunk t).rx = .none → (s.trunk t).activity = .delivering → (s.trunk t).txn = some x → x.phase = .waiting →
    x.kind = .deliver d c n a → s.stored n = some (k, b) → s.fifo (.trunk t) c = q :: qs →
    let started := fun (m r : Bool) (u : State) => u.modTrunk t fun w =>
      { w with
        tx := some ⟨b.dest, .deliver, m, r, numBytes k.source ++ byteOf b.cls.val :: b.data⟩
        txn := some { x with phase := .sending, mark := m }
        counters := { w.counters with delivers := countUp w.counters.delivers }
        egress := { w.egress with fifo := w.egress.fifo.set c ({ q with started := true } :: qs) } }
    (∀ st, s.station b.dest = some st → exec (.deliverStart t) s = .next (started st.outMark st.resync s)) ∧
    (s.station b.dest = none → exec (.deliverStart t) s =
      .next (started (Config.freeMark s.free) (Config.freeResync s.free) (s.setFree (s.free + 1))))

/-- POLL_END, CALL_END, DELIVER_END, BCAST_END: TnDE released and the answer timer, call window or spread gap started with the value in
force; CONFIRM_END: the transaction is over. -/
def Obligations.FramesEnd : Prop :=
  ∀ (t : TrunkId) (s : State) (x : Txn), s.inReset = false → (s.trunk t).txn = some x → x.phase = .sending →
    let ends := fun units : Nat => s.modTrunk t fun k =>
      { k with tx := none, txn := some { x with phase := .ended }, timer := some (s.clock + units) }
    ((s.trunk t).activity = .polling → exec (.pollEnd t) s = .next (ends (s.tparams t).replyTimeout)) ∧
    ((s.trunk t).activity = .calling → exec (.callEnd t) s = .next (ends (s.tparams t).callWindow)) ∧
    ((s.trunk t).activity = .delivering → exec (.deliverEnd t) s = .next (ends (s.tparams t).replyTimeout)) ∧
    ((s.trunk t).activity = .spreading → exec (.bcastEnd t) s = .next (ends (s.tparams t).settleGap)) ∧
    ((s.trunk t).activity = .confirming → exec (.confirmEnd t) s =
      .next (finish (endTxn t (s.modTrunk t fun k =>
        { k with tx := none, txn := some { x with phase := .ended } }))))

/-! ### Frames the exchange receives -/

/-- FRAME_START: the answer while an answer timer or call window runs, LATE in a settle gap, STRAY otherwise, unheard where the
receiver does not listen or the exchange is transmitting. -/
def Obligations.FrameStarts : Prop :=
  ∀ (t : TrunkId) (s : State), s.inReset = false →
    ((s.trunk t).listening = true → (s.trunk t).tx = none → (s.trunk t).rx = .none →
      (s.awaitsAnswer t = true →
        exec (.frameStart t) s = .next (s.modTrunk t fun k => { k with rx := .answer, timer := none })) ∧
      ((s.trunk t).activity = .settling →
        exec (.frameStart t) s = .next (s.modTrunk t fun k => { k with rx := .late })) ∧
      (s.awaitsAnswer t = false → (s.trunk t).activity ≠ .settling →
        exec (.frameStart t) s = .next (s.modTrunk t fun k => { k with rx := .stray }))) ∧
    ((s.trunk t).listening = false ∨ (s.trunk t).tx ≠ none → exec (.frameStart t) s = .next s) ∧
    ((s.trunk t).listening = true ↔ (s.trunk t).mode ≠ .closed ∧ (s.trunk t).line = .sound) ∧
    (s.awaitsAnswer t = true ↔
      ((s.trunk t).activity = .polling ∨ (s.trunk t).activity = .calling ∨ (s.trunk t).activity = .delivering) ∧
        (s.trunk t).txn.map Txn.phase = some .ended ∧ (s.trunk t).timer ≠ none)

/-- DATA_HEADER: a reservation is asked exactly when the answer's header passes the six tests; otherwise nothing happens. -/
def Obligations.DataHeaderReserves : Prop :=
  ∀ (t : TrunkId) (h : FrameHeader) (s : State) (x : Txn) (n : Sys2Proof.Num), s.inReset = false →
    (s.trunk t).activity = .polling → (s.trunk t).txn = some x → x.kind = .poll n → x.held = none →
    (s.trunk t).rx = .answer →
    ((h.lead = 0xC3 ∧ h.station = n ∧ h.control &&& 0xCF = 0x09 ∧ 3 ≤ h.bodyLen.toNat ∧ h.bodyLen.toNat ≤ 243) →
      exec (.dataHeader t h) s =
        .next (finish ((reserve (.trunk t) n (h.bodyLen.toNat - 3) s).1.modTrunk t fun k =>
          { k with txn := k.txn.map fun y =>
            { y with held := some (reserve (.trunk t) n (h.bodyLen.toNat - 3) s).2 } }))) ∧
    (¬(h.lead = 0xC3 ∧ h.station = n ∧ h.control &&& 0xCF = 0x09 ∧ 3 ≤ h.bodyLen.toNat ∧ h.bodyLen.toNat ≤ 243) →
      exec (.dataHeader t h) s = .next s)

/-- DATA_FRAME, the good answer to a POLL with its reservation asked at the header: heard, its bytes in the ticket, then a repeat is
confirmed and its reservation given back, a new one is refused with the held reason, refused by routing, or accepted: an entry at the
tail of the class on each egress needed, the ticket STORED now with as many references, the source charged with its blocks, its count
and its mark. -/
def Obligations.DataJudged : Prop :=
  ∀ (t : TrunkId) (h : StationHead) (dest : Sys2Proof.Num) (cls : Byte) (data : List Byte) (s : State) (x : Txn) (n : Sys2Proof.Num)
    (hd : Held), s.inReset = false → (s.trunk t).activity = .polling → (s.trunk t).txn = some x → x.kind = .poll n →
    x.held = some hd → (s.trunk t).rx = .answer → h.station = n → data.length ≤ 240 →
    (∀ k, hd = .granted k → (s.ticket k).map Ticket.length = some data.length) →
    ∀ a u : State, a = heard t n (s.modTrunk t fun k =>
      { k with rx := .none, counters := { k.counters with dataIn := countUp k.counters.dataIn } }) →
    (∀ r, hd = .failed r → u = a) → (∀ k, hd = .granted k → u = fillTicket k dest cls data a) →
    let confirms := fun (r : Option Reason) (v : State) =>
      exec (.dataFrame t h dest cls data) s = .next (finish (v.modTrunk t fun k =>
        { k with
          activity := .confirming
          txn := k.txn.map fun y => { y with phase := .waiting, held := none, confirm := some ⟨n, h.mark, r⟩ } }))
    (a.isRepeat t n h.mark = true ↔ ∃ st, a.station n = some st ∧ st.home = some t ∧ st.inMark = some h.mark) ∧
    (a.isRepeat t n h.mark = true →
      confirms none (giveBack (some hd) (countTrunk t (fun c => { c with repeats := countUp c.repeats }) u))) ∧
    (a.isRepeat t n h.mark = false →
      (∀ r, hd = .failed r → confirms (some r) u) ∧
      (∀ k r, hd = .granted k → u.route (.trunk t) n dest cls = .error r → confirms (some r) (releaseFilling k u)) ∧
      (∀ k c needs, hd = .granted k → u.route (.trunk t) n dest cls = .ok (c, needs) →
        ∃ w, confirms none w ∧
          (∀ y ∈ needs, w.fifo y.1 c = s.fifo y.1 c ++ [⟨k, y.2, 0, false, false⟩]) ∧
          (∀ e d, (d ≠ c ∨ e ∉ needs.map Prod.fst) → w.fifo e d = s.fifo e d) ∧
          (∀ o, s.ticket k = some o →
            w.ticket k = some
              { o with
                dest := some dest, cls := some cls, data := data, refs := needs.length
                storedAt := some (s.clock / 10) } ∧
            ∀ st, a.station n = some st → w.station n = some
              { st with
                held := st.held + o.blocks
                accepted := if st.accepted = 65535 then 65535 else st.accepted + 1
                inMark := if st.home = some t then some h.mark else st.inMark }) ∧
          (∀ m, m ≠ k → w.ticket m = s.ticket m) ∧ (∀ m, m ≠ n → w.entry m = a.entry m) ∧ w.link = a.link ∧
          ∀ v, w.wakes.get v =
            (a.wakes.get v || ((a.trunk v).activity = .idle && (needs.map Prod.fst).contains (.trunk v)))))

/-- NIL_FRAME, the good answer to a POLL: counted, the station heard. ACK_FRAME, the good answer to a DELIVER: a matching mark delivers
the entry, any other fails the attempt; BUSY_FRAME fails it too. The transaction is over: the burst opened by a POLL, closed by a CALL,
kept by a DELIVER or a BCAST, and a work decision; a settle gap is SETTLING with the timer at SETTLE_GAP. -/
def Obligations.GoodAnswersEndTransaction : Prop :=
  (∀ (t : TrunkId) (h : StationHead) (s : State) (x : Txn), s.inReset = false → (s.trunk t).activity = .polling →
    (s.trunk t).txn = some x → x.kind = .poll h.station → (s.trunk t).rx = .answer →
    exec (.nilFrame t h) s = .next (finish (endTxn t (heard t h.station (countTrunk t
      (fun c => { c with nilIn := countUp c.nilIn }) (giveBack x.held (s.modTrunk t fun k => { k with rx := .none }))))))) ∧
  (∀ (t : TrunkId) (h : StationHead) (s : State) (x : Txn) (c : Cls) (n a : Nat) (q : QEntry) (qs : List QEntry),
    s.inReset = false → (s.trunk t).activity = .delivering → (s.trunk t).txn = some x →
    x.kind = .deliver h.station c n a → (s.trunk t).rx = .answer → s.fifo (.trunk t) c = q :: qs →
    (h.mark = x.mark → exec (.ackFrame t h) s =
      .next (finish (endTxn t (dropRef q.ticket (popHead (.trunk t) c (acknowledged t h.station (s.modTrunk t fun k =>
        { k with rx := .none, counters := { k.counters with acks := countUp k.counters.acks } }))))))) ∧
    (h.mark ≠ x.mark → exec (.ackFrame t h) s =
      .next (finish (endTxn t (attemptFailed t c a (heard t h.station (s.modTrunk t fun k =>
        { k with rx := .none, counters := { k.counters with acks := countUp k.counters.acks } })))))) ∧
    exec (.busyFrame t h) s =
      .next (finish (endTxn t (attemptFailed t c a (heard t h.station (s.modTrunk t fun k =>
        { k with rx := .none, counters := { k.counters with busyIn := countUp k.counters.busyIn } }))))) ) ∧
  ∀ (t : TrunkId) (s : State),
    (∀ x, (s.trunk t).txn = some x →
      let ends := fun b : Option Nat => endTxn t s = workDecision t (s.modTrunk t fun k =>
        { k with activity := .idle, txn := none, timer := none, burst := b })
      (∀ n, x.kind = .poll n → ends (some 0)) ∧ (x.kind = .call → ends none) ∧
      (∀ d c n a, x.kind = .deliver d c n a → ends (s.trunk t).burst) ∧
      ∀ c n, x.kind = .bcast c n → ends (s.trunk t).burst) ∧
    settle t s = s.modTrunk t fun k =>
      { k with activity := .settling, timer := some (s.clock + (s.tparams t).settleGap) }

/-- A failed DELIVER attempt: the entry marked by FLUSH is removed, the one below RETRY_LIMIT keeps its place with one attempt
more, the other is given up for RETRIES. -/
def Obligations.AttemptFailure : Prop :=
  ∀ (t : TrunkId) (c : Cls) (a : Nat) (s : State) (q : QEntry) (qs : List QEntry), s.fifo (.trunk t) c = q :: qs →
    (q.flushMark = true → attemptFailed t c a s = flushedEntry t q (popHead (.trunk t) c s)) ∧
    (q.flushMark = false → a < (s.tparams t).retryLimit →
      attemptFailed t c a s = s.modTrunk t fun k =>
        { k with egress := { k.egress with fifo := k.egress.fifo.set c ({ q with attempts := a + 1 } :: qs) } }) ∧
    (q.flushMark = false → (s.tparams t).retryLimit ≤ a →
      ∃ u, attemptFailed t c a s = dropRef q.ticket (raiseUndelivered (.trunk t) q .retries u) ∧
        u.fifo (.trunk t) c = qs ∧
        (u.trunk t).counters.undelivered = countUp (s.trunk t).counters.undelivered ∧
        (u.trunk t).counters.expired = (s.trunk t).counters.expired ∧
        (∀ k b st, s.stored q.ticket = some (k, b) → q.form = some .deliver → q.started = true →
          s.station b.dest = some st → st.home = some t → u.station b.dest = some { st with resync := true }))

/-- JOIN_FRAME as the answer to a CALL: ignored for its number, or judged by the directory by kind of entry and LEARN. -/
def Obligations.JoinJudged : Prop :=
  ∀ (t : TrunkId) (h : StationHead) (profile : Byte) (s : State) (x : Txn), s.inReset = false →
    (s.trunk t).activity = .calling → (s.trunk t).txn = some x → (s.trunk t).rx = .answer →
    let n := h.station
    let confirms := fun (r : Option Reason) (u : State) =>
      exec (.joinFrame t h profile) s = .next (finish (u.modTrunk t fun k =>
        { k with
          activity := .confirming
          txn := k.txn.map fun y => { y with phase := .waiting, held := none, confirm := some ⟨n, h.mark, r⟩ } }))
    (isStationNumber n = false → exec (.joinFrame t h profile) s =
      .next (finish (settle t (s.modTrunk t fun k =>
        { k with rx := .none, counters := { k.counters with badFrames := countUp k.counters.badFrames } })))) ∧
    (isStationNumber n = true →
      ∀ u : State, u = s.modTrunk t (fun k =>
        { k with rx := .none, counters := { k.counters with joins := countUp k.counters.joins } }) →
      (s.station n = none →
        ((s.tparams t).learn = 0 → confirms (some .learningOff) u) ∧
        ((s.tparams t).learn ≠ 0 → 192 ≤ s.dir.length →
          confirms (some .directoryFull) (countDir (fun c => { c with fullRefusals := countUp c.fullRefusals })
            (raise (.directoryFull n t) u))) ∧
        ((s.tparams t).learn ≠ 0 → s.dir.length < 192 →
          confirms none (wake t (countDir (fun c => { c with learned := countUp c.learned })
            (raise (.joined n t none profile) (putStation n
              ⟨.dynamic (some t) true none, .active, 0, 0, profile, none, false, false, 0, 0⟩ u)))))) ∧
      (∀ st home seen due, s.station n = some st → st.kind = .dynamic home seen due →
        ((s.tparams t).learn = 0 → confirms (some .learningOff) u) ∧
        ((s.tparams t).learn ≠ 0 → home = some t → st.state = .active →
          confirms none (wake t (putStation n
            { st with
              kind := .dynamic (some t) true none, missed := 0, inMark := none, outMark := false, resync := false
              profile := profile } u))) ∧
        ((s.tparams t).learn ≠ 0 → home = some t → st.state = .silent →
          confirms none (wake t (raise (.station n .active) (putStation n
            { st with
              kind := .dynamic (some t) true none, state := .active, missed := 0, inMark := none, outMark := false
              resync := false, profile := profile } u)))) ∧
        ((s.tparams t).learn ≠ 0 → home ≠ some t →
          confirms none (wake t (wakeHome home (countDir (fun c => { c with moved := countUp c.moved })
            (raise (.joined n t home profile) (putStation n
              { st with
                kind := .dynamic (some t) true none, state := .active, missed := 0, inMark := none, outMark := false
                resync := false, profile := profile } u))))))) ∧
      (∀ st home cap pass, s.station n = some st → st.kind = .pinned home cap pass →
        (home = t → st.state = .active →
          confirms none (wake t (putStation n
            { st with missed := 0, inMark := none, outMark := false, resync := false, profile := profile } u))) ∧
        (home = t → st.state = .silent →
          confirms none (wake t (raise (.station n .active) (putStation n
            { st with
              state := .active, missed := 0, inMark := none, outMark := false, resync := false
              profile := profile } u)))) ∧
        (home ≠ t → (s.tparams t).learn = 0 → confirms (some .learningOff) u) ∧
        (home ≠ t → (s.tparams t).learn ≠ 0 →
          confirms (some .pinnedElsewhere) (countDir (fun c => { c with conflicts := countUp c.conflicts })
            (raise (.conflict n t home) u)))))

/-- A bad answer: FAILED_FRAME or TRUNCATED_FRAME, a good frame of a kind the transaction does not invite, or one of an invited kind from
another station: counted, the reservation given back, the station missed, for a DELIVER the attempt failed, a settle gap; for a CALL a
garbled call. -/
def Obligations.BadAnswers : Prop :=
  ∀ (t : TrunkId) (s : State) (x : Txn) (c : Instr), s.inReset = false → (s.trunk t).txn = some x →
    (s.trunk t).rx = .answer →
    let failed : Prop := c = .failedFrame t ∨ c = .truncatedFrame t
    let anyData : Prop := ∃ h dest cls data, c = .dataFrame t h dest cls data
    let anyNil : Prop := ∃ h, c = .nilFrame t h
    let anyAnswer : Prop := ∃ h, c = .ackFrame t h ∨ c = .busyFrame t h
    let anyJoin : Prop := ∃ h profile, c = .joinFrame t h profile
    (∀ n, (s.trunk t).activity = .polling → x.kind = .poll n →
      (failed ∨ anyAnswer ∨ anyJoin ∨
        ∃ h, h.station ≠ n ∧ (c = .nilFrame t h ∨ ∃ dest cls data, c = .dataFrame t h dest cls data)) →
      exec c s = .next (finish (settle t (missed t n ((giveBack x.held (s.modTrunk t fun k =>
        { k with
          rx := .none
          counters := { k.counters with badFrames := countUp k.counters.badFrames } })).modTrunk t fun k =>
            { k with txn := k.txn.map fun y => { y with held := none } }))))) ∧
    (∀ d k n a, (s.trunk t).activity = .delivering → x.kind = .deliver d k n a → x.held = none →
      (failed ∨ anyData ∨ anyNil ∨ anyJoin ∨ ∃ h, h.station ≠ d ∧ (c = .ackFrame t h ∨ c = .busyFrame t h)) →
      exec c s = .next (finish (settle t (attemptFailed t k a (missed t d (s.modTrunk t fun w =>
        { w with
          rx := .none
          counters := { w.counters with badFrames := countUp w.counters.badFrames } })))))) ∧
    ((s.trunk t).activity = .calling → (failed ∨ anyData ∨ anyNil ∨ anyAnswer) →
      exec c s = .next (finish (settle t (s.modTrunk t fun k =>
        { k with
          rx := .none
          counters := { k.counters with callsGarbled := countUp k.counters.callsGarbled } }))))

/-- The end of a LATE or STRAY frame, whatever it is: counted, and nothing else; and the end of a fragment. -/
def Obligations.LateStrayAndFragment : Prop :=
  ∀ (t : TrunkId) (s : State), s.inReset = false →
    (∀ c : Instr, (∃ h d k data, c = .dataFrame t h d k data) ∨ (∃ h, c = .nilFrame t h) ∨ (∃ h, c = .ackFrame t h) ∨
        (∃ h, c = .busyFrame t h) ∨ (∃ h p, c = .joinFrame t h p) ∨ c = .failedFrame t ∨ c = .truncatedFrame t →
      ((s.trunk t).rx = .late → exec c s = .next (s.modTrunk t fun k =>
        { k with rx := .none, counters := { k.counters with late := countUp k.counters.late } })) ∧
      ((s.trunk t).rx = .stray → exec c s = .next (s.modTrunk t fun k =>
        { k with rx := .none, counters := { k.counters with stray := countUp k.counters.stray } }))) ∧
    ((s.trunk t).listening = true → (s.trunk t).tx = none → (s.trunk t).rx = .none →
      exec (.fragmentEnd t) s = .next (s.modTrunk t fun k =>
        { k with counters := { k.counters with badFrames := countUp k.counters.badFrames } }))

/-- The directory's record of a station heard, of one missed, and of a matching ACK from it: the outbound mark flipped, resync pending
over, the delivered count raised, and the station heard. -/
def Obligations.HeardAndMissed : Prop :=
  ∀ (t : TrunkId) (n : Sys2Proof.Num) (s : State),
    (∀ st, s.station n = some st → st.home = some t →
      (st.state = .active → heard t n s = putStation n
        { st with
          missed := 0
          kind :=
            match st.kind with
            | .dynamic home _ _ => .dynamic home true none
            | .pinned home cap pass => .pinned home cap pass } s) ∧
      (st.state = .silent → heard t n s = wake t (raise (.station n .active) (putStation n
        { st with
          missed := 0
          state := .active
          kind :=
            match st.kind with
            | .dynamic home _ _ => .dynamic home true none
            | .pinned home cap pass => .pinned home cap pass } s))) ∧
      (3 ≤ st.missed → missed t n s = s) ∧
      (st.missed < 2 → missed t n s = putStation n { st with missed := st.missed + 1 } s) ∧
      (st.missed = 2 → st.state = .active → missed t n s = wake t (raise (.station n .silent) (putStation n
        { st with missed := 3, state := .silent } s))) ∧
      acknowledged t n s = heard t n (putStation n
        { st with
          outMark := !st.outMark, resync := false
          delivered := if st.delivered = 65535 then 65535 else st.delivered + 1 } s)) ∧
    ((∀ st, s.station n = some st → st.home ≠ some t) → heard t n s = s ∧ missed t n s = s ∧ acknowledged t n s = s)

/-! ### Timers -/

/-- ANSWER_TIMEOUT, CALL_WINDOW_EXPIRY, SETTLE_GAP_END, SPREAD_GAP_END. That the clock is brought to the moment the timer runs out is the
model's choice (log 4). -/
def Obligations.TimersRunOut : Prop :=
  ∀ (t : TrunkId) (s : State) (x : Txn) (due : Nat), s.inReset = false → (s.trunk t).txn = some x →
    (s.trunk t).timer = some due →
    ∀ u : State, u = (s.setClock (max s.clock due)).modTrunk t (fun k => { k with timer := none }) →
    (∀ n, (s.trunk t).activity = .polling → x.phase = .ended → x.kind = .poll n →
      exec (.answerTimeout t) s = .next (finish (settle t (missed t n
        (countTrunk t (fun c => { c with timeouts := countUp c.timeouts }) u))))) ∧
    (∀ d c n a, (s.trunk t).activity = .delivering → x.phase = .ended → x.kind = .deliver d c n a →
      exec (.answerTimeout t) s = .next (finish (settle t (attemptFailed t c a (missed t d
        (countTrunk t (fun c => { c with timeouts := countUp c.timeouts }) u)))))) ∧
    ((s.trunk t).activity = .calling → x.phase = .ended →
      exec (.callWindowExpiry t) s = .next (finish (endTxn t u))) ∧
    ((s.trunk t).activity = .settling → exec (.settleGapEnd t) s = .next (finish (endTxn t u))) ∧
    (∀ c n q qs, (s.trunk t).activity = .spreading → x.kind = .bcast c n → s.fifo (.trunk t) c = q :: qs →
      (q.flushMark = false → exec (.spreadGapEnd t) s =
        .next (finish (endTxn t (dropRef q.ticket (popHead (.trunk t) c u))))) ∧
      (q.flushMark = true → exec (.spreadGapEnd t) s =
        .next (finish (endTxn t (flushedEntry t q (popHead (.trunk t) c u))))))

/-- QUIET_PERIOD_END and CALL_DUE: a work decision, or IDLE and a report while a RESTART is in progress; a wake. That the clock is brought
to the moment the period ends, or the call falls due, is the model's choice (log 4). -/
def Obligations.QuietEndsAndCallFallsDue : Prop :=
  ∀ (t : TrunkId) (s : State), s.inReset = false →
    (∀ due, (s.trunk t).activity = .quiet → (s.trunk t).timer = some due →
      ∀ u : State, u = (s.setClock (max s.clock due)).modTrunk t (fun k => { k with timer := none, activity := .idle }) →
      (s.link.restart = none → exec (.quietPeriodEnd t) s = .next (finish (workDecision t u))) ∧
      (∀ p, s.link.restart = some p → p.waiting.get t = false → exec (.quietPeriodEnd t) s = .next (finish u)) ∧
      (∀ p, s.link.restart = some p → p.waiting.get t = true → p.waiting.set t false ≠ Quad.all false →
        exec (.quietPeriodEnd t) s =
          .next (finish (u.modLink fun l => { l with restart := some { p with waiting := p.waiting.set t false } }))) ∧
      (∀ p r, s.link.restart = some p → p.waiting.get t = true → p.waiting.set t false = Quad.all false →
        s.link.cache = some r →
        ∀ m : Message, m = ⟨0x41, r.seq, [byteOf p.figures.tickets] ++ bytes16 p.figures.entries ++
          [byteOf p.figures.dynamics, byteOf p.figures.notices]⟩ →
        exec (.quietPeriodEnd t) s = .next (finish (wakeAll (raise (.started .restart) (u.modLink fun l =>
          { l with
            restart := none
            cache := some { r with reply := some m }
            replies := l.replies ++ [m] })))))) ∧
    (∀ m, (s.trunk t).listening = true → (s.trunk t).activity = .idle → (s.tparams t).learn ≠ 0 →
      (s.trunk t).lastCall = some m →
      exec (.callDue t) s = .next (finish ((s.setClock (max s.clock ((m + (s.tparams t).callSpacing) * 10))).setWakes
        (s.wakes.set t true))))

/-- The work decision, step by step: a pick while the burst has a slot; a due CALL at the start of a cycle; a POLL of the first eligible
station above the pointer, the withheld ones passed over counted; the end of the cycle, then a due CALL or a POLL from start (a search
from start that finds none counts no withheld station: the model's reading, log 10); a delivery without a poll; another decision when a
SILENT station below its cap waits; else IDLE. Nothing while the trunk does not listen, has a transaction or a RESTART is in progress. -/
def Obligations.WorkDecisions : Prop :=
  (∀ (t : TrunkId) (s : State), s.callIsDue t = true ↔ (s.tparams t).learn ≠ 0 ∧
    ∀ m, (s.trunk t).lastCall = some m → m + (s.tparams t).callSpacing ≤ s.clock / 10) ∧
  (∀ (s : State) (st : Station) (home : TrunkId) (pass : Bool),
    (∀ cap, st.kind = .pinned home (some cap) pass → s.capOf st = cap) ∧
    (st.kind = .pinned home none pass → s.capOf st = s.params.stationCap) ∧
    ∀ h seen due, st.kind = .dynamic h seen due → s.capOf st = s.params.stationCap) ∧
  ∀ (t : TrunkId) (s : State),
    (((s.trunk t).listening = false ∨ (s.trunk t).txn ≠ none ∨ s.link.restart ≠ none) → workDecision t s = s) ∧
    ((s.trunk t).listening = true → (s.trunk t).txn = none → s.link.restart = none →
      let ring := fun v : State => v.dir.filterMap fun e =>
        match e.body with
        | .group _ => none
        | .station st => if st.home = some t then some (e.num, st) else none
      let served := fun (cycle : Fin 8) (y : Sys2Proof.Num × Station) => decide (y.2.state = .active ∨ cycle = 0)
      let calls := fun v : State => v.modTrunk t fun k =>
        { k with activity := .calling, txn := some ⟨.call, .waiting, false, none, none⟩, timer := none }
      let polls := fun (v : State) (withheld : Nat) (n : Sys2Proof.Num) => v.modTrunk t fun k =>
        { k with
          activity := .polling, txn := some ⟨.poll n, .waiting, false, none, none⟩, timer := none, pointer := some n
          counters := { k.counters with withheld := countUpBy k.counters.withheld withheld } }
      let delivers := fun (v : State) (d : Sys2Proof.Num) (c : Cls) (q : QEntry) => v.modTrunk t fun k =>
        { k with
          activity := .delivering, txn := some ⟨.deliver d c q.ticket q.attempts, .waiting, false, none, none⟩
          timer := none }
      let spreads := fun (v : State) (c : Cls) (q : QEntry) => v.modTrunk t fun k =>
        { k with activity := .spreading, txn := some ⟨.bcast c q.ticket, .waiting, false, none, none⟩, timer := none }
      let used := fun v : State => v.modTrunk t fun k => { k with burst := k.burst.map (· + 1) }
      (∀ n v c q, (s.trunk t).burst = some n → n < (s.tparams t).deliveryBurst → pickTrunk t s = (v, some (c, q)) →
        (∀ k b, q.form = some .deliver → v.stored q.ticket = some (k, b) →
          workDecision t s = used (delivers v b.dest c q)) ∧
        (q.form ≠ some .deliver → workDecision t s = used (spreads v c q))) ∧
      ∀ v : State,
        (((∀ n, (s.trunk t).burst = some n → (s.tparams t).deliveryBurst ≤ n) ∧ v = s) ∨
          ∃ n, (s.trunk t).burst = some n ∧ n < (s.tparams t).deliveryBurst ∧ pickTrunk t s = (v, none)) →
        let cycle := (v.trunk t).cycle
        let full := fun (u : State) (y : Sys2Proof.Num × Station) => u.capOf y.2 ≤ y.2.held
        let rest := (ring v).filter fun y =>
          match (v.trunk t).pointer with
          | none => true
          | some p => decide (p < y.1)
        let due : Prop := v.callIsDue t = true
        let opens : Prop := (v.trunk t).pointer = none ∧ (v.trunk t).callMade = false ∧ due
        (opens → workDecision t s = calls v) ∧
        (∀ before n st after, ¬opens → rest = before ++ (n, st) :: after →
          (∀ y ∈ before, served cycle y = true → full v y) → served cycle (n, st) = true → ¬full v (n, st) →
          workDecision t s = polls v (before.filter (served cycle)).length n) ∧
        (¬opens → (∀ y ∈ rest, served cycle y = true → full v y) →
          ∀ e : State, e = v.modTrunk t (fun k =>
            { k with
              cycle := k.cycle + 1, pointer := none, callMade := false
              counters := { k.counters with
                withheld := countUpBy k.counters.withheld (rest.filter (served cycle)).length } }) →
          (due → workDecision t s = calls e) ∧
          (∀ before n st after, ¬due → ring v = before ++ (n, st) :: after →
            (∀ y ∈ before, served (cycle + 1) y = true → full v y) → served (cycle + 1) (n, st) = true →
            ¬full v (n, st) → workDecision t s = polls e (before.filter (served (cycle + 1))).length n) ∧
          (¬due → (∀ y ∈ ring v, served (cycle + 1) y = true → full v y) →
            (∀ w c q, pickTrunk t e = (w, some (c, q)) →
              (∀ k b, q.form = some .deliver → w.stored q.ticket = some (k, b) →
                workDecision t s = delivers w b.dest c q) ∧
              (q.form ≠ some .deliver → workDecision t s = spreads w c q)) ∧
            ∀ w, pickTrunk t e = (w, none) →
              ((∃ y ∈ ring w, y.2.state = .silent ∧ ¬full w y) → workDecision t s = workDecision t w) ∧
              ((∀ y ∈ ring w, y.2.state = .silent → full w y) →
                workDecision t s = w.modTrunk t fun k => { k with activity := .idle, burst := none }))))

/-! ### The store and the notices -/

/-- The two ends of a ticket. A reservation, failing by the tests in their order, or granted: the lowest FREE number, FILLING, the gauges
and the low-pool state following. A ticket's release, by its reservation given back or its last reference dropped: its blocks returned,
the source's held blocks lowered (which wakes its home's controller below the cap, and removes an overdue entry that holds none), the
recovery from a low pool. An arrival's bytes in its FILLING ticket. -/
def Obligations.StoreOperations : Prop :=
  (∀ (p : Port) (source : Sys2Proof.Num) (length b : Nat) (s : State), b = max 1 ((length + 31) / 32) →
    (s.store.freeBlocks < b → reserve p source length s =
      (s.setStore { s.store with poolFails := countUp s.store.poolFails }, .failed .pool)) ∧
    (b ≤ s.store.freeBlocks → 160 ≤ s.lowestFree → reserve p source length s =
      (s.setStore { s.store with ticketFails := countUp s.store.ticketFails }, .failed .tickets)) ∧
    (b ≤ s.store.freeBlocks → s.lowestFree < 160 → s.portCap p < s.store.occ.get p + b → reserve p source length s =
      (s.setStore { s.store with portLimitFails := countUp s.store.portLimitFails }, .failed .portLimit)) ∧
    (b ≤ s.store.freeBlocks → s.lowestFree < 160 → s.store.occ.get p + b ≤ s.portCap p → s.store.ticketLaw →
      ∃ u, reserve p source length s = (u, .granted s.lowestFree) ∧ s.ticket s.lowestFree = none ∧
        (∀ n, n < s.lowestFree → s.ticket n ≠ none) ∧
        u.ticket s.lowestFree = some ⟨s.lowestFree, source, none, none, p, length, b, [], 0, none⟩ ∧
        (∀ n, n ≠ s.lowestFree → u.ticket n = s.ticket n) ∧
        u.store.freeBlocks = s.store.freeBlocks - b ∧ u.store.occ.get p = s.store.occ.get p + b ∧
        (∀ o, o ≠ p → u.store.occ.get o = s.store.occ.get o) ∧
        u.store.low = (s.store.low || u.store.freeBlocks < s.params.poolLow) ∧
        u.store.leastFree = min s.store.leastFree (s.store.freeBlocks - b) ∧
        u.store.peakTickets = max s.store.peakTickets (s.store.tickets.length + 1) ∧
        u.store.poolFails = s.store.poolFails ∧ u.store.ticketFails = s.store.ticketFails ∧
        u.store.portLimitFails = s.store.portLimitFails ∧ u.dir = s.dir ∧
        u.link = (if s.store.low = false ∧ s.store.freeBlocks - b < s.params.poolLow
          then raise (.pool true (s.store.freeBlocks - b)) s else s).link)) ∧
  (∀ (n : Nat) (k : Ticket) (s : State), s.ticket n = some k →
    let r := s.setStore
      { s.store with
        tickets := s.store.tickets.filter fun x => x.num ≠ n
        freeBlocks := s.store.freeBlocks + k.blocks
        occ := s.store.occ.put k.port (s.store.occ.get k.port - k.blocks) }
    let settled := fun v : State =>
      if s.params.poolLow + 32 < v.store.freeBlocks ∧ v.store.low = true then
        raise (.pool false v.store.freeBlocks) (v.setStore { v.store with low := false })
      else v
    releaseFilling n s = settled r ∧
    (1 < k.refs →
      (dropRef n s).ticket n = some { k with refs := k.refs - 1 } ∧
        (∀ m, m ≠ n → (dropRef n s).ticket m = s.ticket m) ∧ (dropRef n s).store.freeBlocks = s.store.freeBlocks ∧
        (dropRef n s).store.occ = s.store.occ ∧ (dropRef n s).dir = s.dir ∧ (dropRef n s).link = s.link) ∧
    (k.refs ≤ 1 →
      (dropRef n s).ticket n = none ∧ (∀ m, m ≠ n → (dropRef n s).ticket m = s.ticket m) ∧
        (dropRef n s).store.freeBlocks = s.store.freeBlocks + k.blocks ∧
        (dropRef n s).store.occ.get k.port = s.store.occ.get k.port - k.blocks ∧
        (dropRef n s).store.low = (s.store.low && (dropRef n s).store.freeBlocks ≤ s.params.poolLow + 32) ∧
        (k.port = .host → dropRef n s = settled r) ∧
        (k.port ≠ .host → s.station k.source = none → dropRef n s = settled r) ∧
        ∀ st, k.port ≠ .host → s.station k.source = some st →
          let held := st.held - k.blocks
          let lowered := putStation k.source { st with held := held } r
          (∀ cause, st.kind.overdue = some cause → held = 0 → dropRef n s = settled (wakeHome st.home
            (let g := raise (.gone k.source cause) (dropEntry k.source r)
            if cause = .aged then countDir (fun c => { c with aged := countUp c.aged }) g else g))) ∧
          (st.kind.overdue = none ∨ held ≠ 0 →
            (s.capOf st ≤ st.held ∧ held < s.capOf st → dropRef n s = settled (wakeHome st.home lowered)) ∧
            (st.held < s.capOf st ∨ s.capOf st ≤ held → dropRef n s = settled lowered)))) ∧
  ∀ (n : Nat) (s : State),
    giveBack (some (.granted n)) s = releaseFilling n s ∧ (∀ r, giveBack (some (.failed r)) s = s) ∧ giveBack none s = s ∧
    ∀ k dest cls data, s.ticket n = some k →
      fillTicket n dest cls data s = s.setStore
        { s.store with
          tickets := putTicketInto { k with dest := some dest, cls := some cls, data := data } s.store.tickets } ∧
      ∀ m, (fillTicket n dest cls data s).ticket m =
        if m = n then some { k with dest := some dest, cls := some cls, data := data } else s.ticket m

/-- A notice raised: not while its kind is off, dropped and counted when 32 are pending, else queued with the sequence and the
lost count; and the message that carries a notice, kind by kind. -/
def Obligations.NoticesRaised : Prop :=
  (∀ (f : NoticeFields) (s : State),
    (f.kind ≠ .started → s.params.enable.get f.kind = 0 → raise f s = s) ∧
    ((f.kind = .started ∨ s.params.enable.get f.kind ≠ 0) →
      (32 ≤ s.link.pendingNotices.length → raise f s = s.modLink fun l =>
        { l with
          lost := if l.lost = 255 then 255 else l.lost + 1
          counters := { l.counters with noticesLost := countUp l.counters.noticesLost } }) ∧
      (s.link.pendingNotices.length < 32 → raise f s = s.modLink fun l =>
        { l with
          pendingNotices := l.pendingNotices ++ [⟨l.noticeSeq, l.lost, f⟩], noticeSeq := l.noticeSeq + 1
          lost := 0 }))) ∧
  ∀ (seq lost : Byte) (n d : Sys2Proof.Num) (t h : TrunkId) (profile : Byte) (k free : Nat) (c : Cls),
    let carries := fun (f : NoticeFields) (bytes : List Byte) => (Notice.mk seq lost f).message = ⟨0x61, seq, lost :: bytes⟩
    carries (.started .power) [0x01, 0x00] ∧ carries (.started .resetLine) [0x01, 0x01] ∧
      carries (.started .restart) [0x01, 0x02] ∧
    carries (.joined n t none profile) (0x02 :: numBytes n ++ [byteOf t.val, 0xFF, profile]) ∧
      carries (.joined n t (some h) profile) (0x02 :: numBytes n ++ [byteOf t.val, byteOf h.val, profile]) ∧
    carries (.gone n .aged) (0x03 :: numBytes n ++ [0x01]) ∧ carries (.gone n .closed) (0x03 :: numBytes n ++ [0x02]) ∧
      carries (.gone n .forgotten) (0x03 :: numBytes n ++ [0x03]) ∧
    carries (.station n .active) (0x04 :: numBytes n ++ [0x00]) ∧ carries (.station n .silent) (0x04 :: numBytes n ++ [0x01]) ∧
    carries (.conflict n t h) (0x05 :: numBytes n ++ [byteOf t.val, byteOf h.val]) ∧
    carries (.directoryFull n t) (0x06 :: numBytes n ++ [byteOf t.val]) ∧
    (∀ x ∈ ([(.expired, 0x01), (.noStation, 0x02), (.noRoute, 0x03), (.silent, 0x04), (.retries, 0x05),
        (.rerouteFull, 0x06)] : List (Undelivered × Byte)),
      carries (.undelivered k n d c x.1 (.trunk t))
          (0x07 :: byteOf k :: numBytes n ++ numBytes d ++ [byteOf c.val, x.2, byteOf t.val]) ∧
        carries (.undelivered k n d c x.1 .host) (0x07 :: byteOf k :: numBytes n ++ numBytes d ++ [byteOf c.val, x.2, 0x04])) ∧
    carries (.line t .sound) [0x08, byteOf t.val, 0x00] ∧ carries (.line t .faulted) [0x08, byteOf t.val, 0x01] ∧
    carries (.pool true free) (0x09 :: 0x00 :: bytes16 free) ∧ carries (.pool false free) (0x09 :: 0x01 :: bytes16 free)

/-- What the end of an event leaves unchanged: the parameters, time, pins, straps, modes, line states, bit rates, the aging
timer, the reply cache, a RESTART, the receiver; the credit only falls, and replies leave only from the head. -/
def Obligations.FinishKeeps : Prop :=
  ∀ s : State, (finish s).pending = s.pending ∧ (finish s).params = s.params ∧ (finish s).clock = s.clock ∧
    (finish s).straps = s.straps ∧ (finish s).fltPins = s.fltPins ∧ (finish s).inReset = s.inReset ∧
    (finish s).aging = s.aging ∧ (finish s).free = s.free ∧
    (∀ t, ((finish s).trunk t).mode = (s.trunk t).mode ∧ ((finish s).trunk t).line = (s.trunk t).line ∧
      ((finish s).trunk t).bitRate = (s.trunk t).bitRate) ∧
    (finish s).link.cache = s.link.cache ∧ (finish s).link.restart = s.link.restart ∧
    (finish s).link.rx = s.link.rx ∧ (finish s).link.credit ≤ s.link.credit ∧
    (finish s).link.replies <:+ s.link.replies

/-- The transmitter at the end of an event in which no controller was woken: a reply first, then a resend or a due notice, then, with
credit, a pick at the HOST egress and its TELEGRAM message; a busy one goes on. That a free transmitter takes its message within the
event is the model's reading (log 8), and that sources which acquired something in one event, the transmitter free, are taken in this
order is the model's choice (log 36). The HOST pick: the head of the highest class, given up while it has outlived its lifetime. What a
wake event does, and a woken controller's decision at the event's end, are the model's choice (log 9). -/
def Obligations.TransmitterOrder : Prop :=
  let quiet := fun u : State => u.link.stalled = true ∨ (u.link.resendDue = .no ∧
    (u.link.pendingNotices = [] ∨ u.params.noticeWindow ≤ u.link.unacked.length))
  let notifies := fun (n : Notice) (ns : List Notice) (u : State) => u.modLink fun l =>
    { l with
      tx := .notice n.message
      pendingNotices := ns
      unacked := l.unacked ++ [⟨n, 0⟩]
      counters := { l.counters with noticesSent := countUp l.counters.noticesSent } }
  (∀ s : State, s.wakes = Quad.all false →
    (s.link.tx ≠ .free → finish s = s) ∧
    (∀ r rs, s.link.tx = .free → s.link.replies = r :: rs →
      finish s = s.modLink fun l => { l with tx := .reply r, replies := rs }) ∧
    (s.link.tx = .free → s.link.replies = [] →
      (∀ x xs, s.link.stalled = false → s.link.resendDue ≠ .no → s.link.unacked = x :: xs →
        finish s = s.modLink fun l =>
          { l with
            tx := .notice x.notice.message
            unacked := { x with resends := if l.resendDue = .afterTimeout then x.resends + 1 else x.resends } :: xs
            resendDue := .no
            counters := { l.counters with noticeResends := countUp l.counters.noticeResends } }) ∧
      (∀ n ns, s.link.stalled = false → s.link.resendDue = .no → s.link.pendingNotices = n :: ns →
        s.link.unacked.length < s.params.noticeWindow → finish s = notifies n ns s) ∧
      (quiet s → s.link.credit = 0 → finish s = s) ∧
      (quiet s → 0 < s.link.credit →
        (∀ u c q k b, hostPick s = (u, some (c, q)) → u.wakes = Quad.all false → u.stored q.ticket = some (k, b) →
          finish s = u.modLink fun l =>
            { l with
              tx := .telegram ⟨0x71, l.telegramSeq, [byteOf k.num] ++ numBytes k.source ++ numBytes b.dest ++
                [byteOf b.cls.val, match k.port with
                  | .trunk t => byteOf t.val
                  | .host => 0x04] ++ b.data⟩ (some c)
              credit := l.credit - 1
              telegramSeq := l.telegramSeq + 1 }) ∧
        (∀ u, hostPick s = (u, none) → u.wakes = Quad.all false → quiet u → finish s = u) ∧
        (∀ u n ns, hostPick s = (u, none) → u.wakes = Quad.all false → u.link.stalled = false → u.link.resendDue = .no →
          u.link.pendingNotices = n :: ns → u.link.unacked.length < u.params.noticeWindow →
          finish s = notifies n ns u)))) ∧
  (∀ s : State,
    ((∀ c, s.fifo .host c = []) → hostPick s = (s, none)) ∧
    ∀ c q qs k b, s.fifo .host c = q :: qs → (∀ d, c < d → s.fifo .host d = []) → s.stored q.ticket = some (k, b) →
      let late : Bool := s.params.lifetime.get b.cls ≠ 0 && s.params.lifetime.get b.cls < s.clock / 10 - b.storedAt
      (late = false → hostPick s = (s, some (c, q))) ∧
      (late = true → hostPick s = hostPick (dropRef q.ticket
        (raise (.undelivered q.ticket k.source b.dest b.cls .expired .host) (setFifo .host c qs s))))) ∧
  ∀ (s : State) (t : TrunkId),
    ((s.trunk t).activity = .idle → wake t s = s.setWakes (s.wakes.set t true)) ∧
    ((s.trunk t).activity ≠ .idle → wake t s = s) ∧ wakeHome (some t) s = wake t s ∧ wakeHome none s = s ∧
    wakeAll s = wake 3 (wake 2 (wake 1 (wake 0 s))) ∧
    ∀ u : State, s.link.tx ≠ .free → s.wakes = (Quad.all false).set t true → u.wakes = Quad.all false →
      ((s.trunk t).activity = .idle → u = workDecision t (s.setWakes (Quad.all false)) → finish s = u) ∧
      ((s.trunk t).activity ≠ .idle → finish s = s.setWakes (Quad.all false))

/-! ### Routing and class service -/

/-- The six checks of routing in their order, the refusal of the fifth passed on; and the egresses of each kind of destination: the host,
a known unicast number (its home's DELIVER, or NO_ROUTE, LINE_DOWN, LOCAL in that order), an unknown or homeless one by UNKNOWN_POLICY,
a group, the broadcast, with NO_ROUTE for an empty copy set. -/
def Obligations.RoutingChecks : Prop :=
  (∀ (s : State) (arrival : Port) (source dest : Sys2Proof.Num) (cls : Byte),
    (4 ≤ cls.toNat → s.route arrival source dest cls = .error .badHeader) ∧
    (∀ t, arrival = .trunk t → cls.toNat < 4 → s.entry source = none →
      s.route arrival source dest cls = .error .notJoined) ∧
    (cls.toNat < 4 → (∀ t, arrival = .trunk t → s.entry source ≠ none) → dest = source →
      s.route arrival source dest cls = .error .self_) ∧
    (∀ t, arrival = .trunk t → cls.toNat < 4 → s.entry source ≠ none → dest ≠ source → (s.trunk t).mode = .survey →
      dest ≠ 0 → s.route arrival source dest cls = .error .surveyOnly) ∧
    ((arrival = .host ∨ ∃ t, arrival = .trunk t ∧ s.entry source ≠ none ∧ ((s.trunk t).mode = .survey → dest = 0)) →
      ∀ h : cls.toNat < 4, dest ≠ source →
      (∀ r, s.chooseEgresses arrival dest = .error r → s.route arrival source dest cls = .error r) ∧
      ∀ needs, s.chooseEgresses arrival dest = .ok needs →
        ((∀ x ∈ needs, s.entries x.1 < s.queueLimit x.1) →
          s.route arrival source dest cls = .ok (⟨cls.toNat, h⟩, needs)) ∧
        ((∃ x ∈ needs, s.queueLimit x.1 ≤ s.entries x.1) → s.route arrival source dest cls = .error .queueFull))) ∧
  ∀ (s : State) (arrival : Port) (dest : Sys2Proof.Num),
    let copies := fun set : Quad Bool => ([0, 1, 2, 3] : List TrunkId).filterMap fun u =>
      if set.get u = true ∧ (s.trunk u).mode = .carry ∧ (s.trunk u).line = .sound then
        some (Port.trunk u, some Form.bcast) else none
    let goes := fun needs : List Need => s.chooseEgresses arrival dest = if needs = [] then .error .noRoute else .ok needs
    (dest = 0 → s.chooseEgresses arrival dest = .ok [(.host, none)]) ∧
    (∀ st t, isStationNumber dest = true → s.station dest = some st → st.home = some t →
      let carries : Bool := (s.trunk t).mode = .carry || ((s.trunk t).mode = .survey && st.kind.surveyPass)
      (carries = false → s.chooseEgresses arrival dest = .error .noRoute) ∧
      (carries = true → (s.trunk t).line = .faulted → s.chooseEgresses arrival dest = .error .lineDown) ∧
      (carries = true → (s.trunk t).line = .sound → arrival = .trunk t → s.params.localTurn = 0 →
        s.chooseEgresses arrival dest = .error .local_) ∧
      (carries = true → (s.trunk t).line = .sound → (arrival ≠ .trunk t ∨ s.params.localTurn ≠ 0) →
        s.chooseEgresses arrival dest = .ok [(.trunk t, some .deliver)])) ∧
    (isStationNumber dest = true → (∀ st, s.station dest = some st → st.home = none) →
      (s.params.unknownPolicy = 0 → s.chooseEgresses arrival dest = .ok [(.host, none)]) ∧
      (s.params.unknownPolicy = 1 → s.chooseEgresses arrival dest = .error .noRoute) ∧
      (s.params.unknownPolicy = 2 → goes (copies (Quad.all true)))) ∧
    (isGroupNumber dest = true →
      (s.group dest = none → s.chooseEgresses arrival dest = .error .noRoute) ∧
      ∀ m, s.group dest = some m → goes (copies m.trunks ++ if m.host then [(.host, none)] else [])) ∧
    (dest = 0xFFFF → goes (copies (Quad.all true) ++ if s.params.broadcastToHost ≠ 0 then [(.host, none)] else []))

/-- Class service: the chosen class has the largest balance after the weights are added, is the highest of those that share it,
and pays back the sum; with EXPRESS on, class 3 is taken and no balance changes. The head checks of the chosen class's head: given up
when it has outlived its lifetime, or, for a DELIVER, when its destination has no entry or no home, is SILENT, or has another home to
which it cannot be rerouted; rerouted where it can; and after each the pick is made again. -/
def Obligations.ClassService : Prop :=
  (∀ (t : TrunkId) (s : State),
    ((s.tparams t).express ≠ 0 → s.fifo (.trunk t) 3 ≠ [] → chooseClass t s = (s, some 3)) ∧
    (((s.tparams t).express = 0 ∨ s.fifo (.trunk t) 3 = []) →
      let w := fun k : Cls => if s.fifo (.trunk t) k = [] then 0 else (s.tparams t).weight.get k
      let b := fun k : Cls => (s.trunk t).egress.balance.get k + (w k : Int)
      ((∀ k, s.fifo (.trunk t) k = []) → chooseClass t s = (s, none)) ∧
      (∀ c, s.fifo (.trunk t) c ≠ [] → (∀ k, s.fifo (.trunk t) k ≠ [] → b k ≤ b c) →
        (∀ k, s.fifo (.trunk t) k ≠ [] → b k = b c → k ≤ c) →
        ∃ u, chooseClass t s = (u, some c) ∧ (∀ e k, u.fifo e k = s.fifo e k) ∧
          ∀ k, (u.trunk t).egress.balance.get k = if k = c then b c - ((w 0 + w 1 + w 2 + w 3 : Nat) : Int) else b k))) ∧
  (∀ (t : TrunkId) (c : Cls) (qs : List QEntry) (s : State), setFifo (.trunk t) c qs s = s.modTrunk t fun k =>
    { k with
      egress := ⟨k.egress.fifo.set c qs, if qs = [] then k.egress.balance.set c 0 else k.egress.balance⟩ }) ∧
  (∀ (e : Port) (c : Cls) (s : State), popHead e c s = setFifo e c (s.fifo e c).tail s) ∧
  ∀ (t : TrunkId) (s u : State),
    (chooseClass t s = (u, none) → pickTrunk t s = (u, none)) ∧
    ∀ (c : Cls) (q : QEntry) (qs : List QEntry) (k : Ticket) (b : TicketBody), chooseClass t s = (u, some c) →
      u.fifo (.trunk t) c = q :: qs → u.stored q.ticket = some (k, b) →
      let late : Bool := u.params.lifetime.get b.cls ≠ 0 && u.params.lifetime.get b.cls < u.clock / 10 - b.storedAt
      let out := setFifo (.trunk t) c qs u
      let yields : Prop := pickTrunk t s = (u, some (c, q))
      let marked := fun v : State => if q.form = some .deliver ∧ q.started = true then setResync t b.dest v else v
      let lost := fun (r : Undelivered) (mark : State → State) => pickTrunk t s = pickTrunk t (dropRef q.ticket
        (raise (.undelivered q.ticket k.source b.dest b.cls r (.trunk t)) (mark (countTrunk t (fun n =>
          { n with
            undelivered := countUp n.undelivered
            expired := if r = .expired then countUp n.expired else n.expired }) out))))
      (late = true → lost .expired marked) ∧
      (late = false → q.form ≠ some .deliver → yields) ∧
      (late = false → q.form = some .deliver →
        ((∀ st, u.station b.dest = some st → st.home = none) → lost .noStation id) ∧
        ∀ st h, u.station b.dest = some st → st.home = some h →
          (h = t → st.state = .silent → lost .silent marked) ∧
          (h = t → st.state = .active → yields) ∧
          (h ≠ t →
            let takes : Bool := ((u.trunk h).mode = .carry || ((u.trunk h).mode = .survey && st.kind.surveyPass)) &&
              (u.trunk h).line = .sound && (k.port ≠ .trunk h || u.params.localTurn ≠ 0)
            (takes = false → lost .noRoute id) ∧
            (takes = true → u.queueLimit (.trunk h) ≤ u.entries (.trunk h) → lost .rerouteFull id) ∧
            (takes = true → u.entries (.trunk h) < u.queueLimit (.trunk h) →
              ∀ v : State, v = countTrunk t (fun n => { n with rerouted := countUp n.rerouted }) out →
              pickTrunk t s = pickTrunk t (wake h (setFifo (.trunk h) c
                (u.fifo (.trunk h) c ++ [{ q with flushMark := false }]) v)))))

/-! ### The lines' bytes -/

/-- The ten bits of a character on either line: start bit, the data bits from the least significant one, stop bit (the two as symbols of
their place: the model's choice, log 35); what stands on TnTX, TnDE and HTX, and the rates; the check of the character string 123456789;
the characters of a frame, control bytes, the ranges of numbers, the refusal reasons' codes and block counts. -/
def Obligations.KnownCharacters : Prop :=
  (∀ c : Byte, charBits c = [.start, .data (c.getLsbD 0), .data (c.getLsbD 1), .data (c.getLsbD 2), .data (c.getLsbD 3),
    .data (c.getLsbD 4), .data (c.getLsbD 5), .data (c.getLsbD 6), .data (c.getLsbD 7), .stop]) ∧
  (∀ f : Frame, f.bits = f.chars.flatMap charBits ∧ f.bits.length = 10 * (7 + f.body.length)) ∧
  (∀ m : Message, m.bits = m.chars.flatMap charBits ∧ m.bits.length = 10 * (7 + m.body.length)) ∧
  (∀ (s : State) (t : TrunkId),
    ((s.trunk t).tx = none → s.trunkOut t = [] ∧ s.driverEnabled t = false) ∧
    (∀ f, (s.trunk t).tx = some f → s.trunkOut t = f.bits ∧ s.driverEnabled t = true) ∧
    s.charTime t = 10000000 / ((s.trunk t).bitRate : ℚ)) ∧
  (∀ s : State,
    (s.link.tx = .free → s.hostOut = []) ∧
    (∀ m, (s.link.tx = .reply m ∨ s.link.tx = .notice m ∨ ∃ c, s.link.tx = .telegram m c) → s.hostOut = m.bits) ∧
    s.hostRate = if s.straps.hrate1 then (if s.straps.hrate0 then 2000000 else 921600)
      else if s.straps.hrate0 then 460800 else 115200) ∧
  crc16 [0x31, 0x32, 0x33, 0x34, 0x35, 0x36, 0x37, 0x38, 0x39] = 0x29B1 ∧
    (∀ f : Frame, f.chars = 0xC3 :: (f.station.extractLsb' 8 8) :: (f.station.extractLsb' 0 8) ::
      controlByte f.resync f.mark f.kind :: byteOf f.body.length :: f.body ++
        numBytes (crc16 ([f.station.extractLsb' 8 8, f.station.extractLsb' 0 8, controlByte f.resync f.mark f.kind,
          byteOf f.body.length] ++ f.body))) ∧
    controlByte false true .deliver = 0x13 ∧ controlByte true false .deliver = 0x23 ∧ controlByte false false .poll = 0x01 ∧
    (∀ n : Sys2Proof.Num, (isStationNumber n = true ↔ 0x0001 ≤ n.toNat ∧ n.toNat ≤ 0xFEFF) ∧
      (isGroupNumber n = true ↔ 0xFF00 ≤ n.toNat ∧ n.toNat ≤ 0xFFFE)) ∧
    ([.pool, .tickets, .portLimit, .queueFull, .noRoute, .lineDown, .local_, .self_, .badHeader, .notJoined, .surveyOnly,
        .directoryFull, .pinnedElsewhere, .learningOff] : List Reason).map Reason.code =
      [0x01, 0x02, 0x03, 0x04, 0x05, 0x06, 0x07, 0x08, 0x09, 0x0A, 0x0B, 0x0C, 0x0D, 0x0E] ∧
    (blockCount 0 = 1 ∧ blockCount 32 = 1 ∧ blockCount 33 = 2 ∧ blockCount 70 = 3 ∧ blockCount 240 = 8)

/-- Encoding and decoding agree on the host link: the characters of every message a well-formed command stands for, and the bits of those
characters, are read back as that command, with a SEND's header point before it, whatever characters follow. -/
def Obligations.HostMessageRoundTrip : Prop :=
  ∀ (c : Instr) (kind seq : Byte) (body rest : List Byte), c.asMessage = some (kind, seq, body) → c.wellFormed = true →
    let read := some ((if kind = 0x1A then [.sendHeader (BitVec.ofNat 16 (body.length + 2))] else []) ++ [c], rest)
    decodeHost ((Message.mk kind seq body).chars ++ rest) = read ∧
      decodeHostBits ((Message.mk kind seq body).bits ++ rest.flatMap charBits) = read

/-- Encoding and decoding agree on a trunk: the characters of every good station frame, and their bits, are read as its start, its header
and its own command with every operand. -/
def Obligations.StationFrameRoundTrip : Prop :=
  ∀ (t : TrunkId) (h : StationHead) (dest : Sys2Proof.Num) (cls profile : Byte) (data : List Byte), data.length ≤ 240 →
    let reads := fun (k : FrameKind) (body : List Byte) (c : Instr) =>
      let f : Frame := ⟨h.station, k, h.mark, h.resync, body⟩
      let read := [.frameStart t, .dataHeader t ⟨0xC3, h.station, controlByte h.resync h.mark k, byteOf body.length⟩, c]
      decodeFrame t f.chars = read ∧ decodeFrameBits t f.bits = some read
    reads .data (numBytes dest ++ cls :: data) (.dataFrame t h dest cls data) ∧ reads .nil [] (.nilFrame t h) ∧
      reads .ack [] (.ackFrame t h) ∧ reads .busy [] (.busyFrame t h) ∧ reads .join [profile] (.joinFrame t h profile)

/-! ### Laws that every step keeps -/

/-- State.reset satisfies every law. -/
def Obligations.LawsAtReset : Prop :=
  State.reset.paramLaw ∧ State.reset.creditLaw ∧ State.reset.noticeLaw ∧ State.reset.txnLaw ∧ State.reset.storeLaw ∧
    State.reset.refLaw ∧ State.reset.arrivalLaw ∧ State.reset.dirLaw ∧ State.reset.numberLaw ∧ State.reset.heldLaw ∧
    State.reset.egressLaw

/-- Every parameter stays in its range. -/
def Obligations.ParametersStayInRange : Prop := ∀ s s' : State, s.paramLaw → step s = .next s' → s'.paramLaw

/-- The laws of host credit and of the notice queues, given the parameters in range; no transaction on a trunk that is CLOSED or FAULTED. -/
def Obligations.LinkAndTransactionLaws : Prop :=
  (∀ s s' : State, s.paramLaw → s.creditLaw → s.noticeLaw → step s = .next s' → s'.creditLaw ∧ s'.noticeLaw) ∧
  ∀ s s' : State, s.txnLaw → step s = .next s' → s'.txnLaw

/-- The laws of the store: the first and the second, of blocks and occupancies; and the third, of references, with what each port's
arrival holds, which the proof of the third goes through. -/
def Obligations.StoreLaws : Prop :=
  (∀ s s' : State, s.storeLaw → step s = .next s' → s'.storeLaw) ∧
    ∀ s s' : State, s.storeLaw → s.refLaw → s.arrivalLaw → step s = .next s' → s'.refLaw ∧ s'.arrivalLaw

/-- The laws of the directory: its capacities; its numbers; and the law of held counts, given the laws of the store. -/
def Obligations.DirectoryLaws : Prop :=
  (∀ s s' : State, s.dirLaw → step s = .next s' → s'.dirLaw) ∧
    (∀ s s' : State, s.numberLaw → step s = .next s' → s'.numberLaw) ∧
    ∀ s s' : State, s.storeLaw → s.refLaw → s.arrivalLaw → s.dirLaw → s.numberLaw → s.heldLaw → step s = .next s' →
      s'.heldLaw

/-- No egress ever holds more than 64 entries, given the parameters in range. -/
def Obligations.EgressLaw : Prop :=
  ∀ s s' : State, s.paramLaw → s.egressLaw → step s = .next s' → s'.egressLaw

end Slice0Statements
end

