-- ==== Sys2Proof/Laws/State.lean ====
section
/-!
SUPPORT. One lemma per field and replacement of a part of the state; four-fold containers; a trunk's record.
-/

namespace Sys2Proof

namespace Quad

variable {α : Type}

@[simp] theorem get_set_self (q : Quad α) (i : Fin 4) (v : α) : (q.set i v).get i = v := by
  match i with
  | 0 => rfl
  | 1 => rfl
  | 2 => rfl
  | 3 => rfl

theorem get_set_of_ne (q : Quad α) {i j : Fin 4} (v : α) (h : j ≠ i) : (q.set i v).get j = q.get j := by
  match i, j with
  | 0, 0 | 1, 1 | 2, 2 | 3, 3 => exact absurd rfl h
  | 0, 1 | 0, 2 | 0, 3 | 1, 0 | 1, 2 | 1, 3 | 2, 0 | 2, 1 | 2, 3 | 3, 0 | 3, 1 | 3, 2 => rfl

theorem get_set (q : Quad α) (i j : Fin 4) (v : α) : (q.set i v).get j = if j = i then v else q.get j := by
  by_cases h : j = i
  · subst h
    simp
  · simp [h, get_set_of_ne]

@[simp] theorem set_get_self (q : Quad α) (i : Fin 4) : q.set i (q.get i) = q := by
  match i with
  | 0 => rfl
  | 1 => rfl
  | 2 => rfl
  | 3 => rfl

@[simp] theorem set_set (q : Quad α) (i : Fin 4) (v w : α) : (q.set i v).set i w = q.set i w := by
  match i with
  | 0 => rfl
  | 1 => rfl
  | 2 => rfl
  | 3 => rfl

@[simp] theorem get_all (v : α) (i : Fin 4) : (Quad.all v).get i = v := by
  match i with
  | 0 => rfl
  | 1 => rfl
  | 2 => rfl
  | 3 => rfl

theorem ext_get {q r : Quad α} (h : ∀ i, q.get i = r.get i) : q = r := by
  cases q
  cases r
  have h0 := h 0
  have h1 := h 1
  have h2 := h 2
  have h3 := h 3
  simp only [get] at h0 h1 h2 h3
  subst h0 h1 h2 h3
  rfl

end Quad

namespace Machine.State

variable (s : State)

@[simp] theorem setPending_pending (v : List Instr) : (s.setPending v).pending = v := rfl
@[simp] theorem setPending_clock (v : List Instr) : (s.setPending v).clock = s.clock := rfl
@[simp] theorem setPending_inReset (v : List Instr) : (s.setPending v).inReset = s.inReset := rfl
@[simp] theorem setPending_straps (v : List Instr) : (s.setPending v).straps = s.straps := rfl
@[simp] theorem setPending_fltPins (v : List Instr) : (s.setPending v).fltPins = s.fltPins := rfl
@[simp] theorem setPending_params (v : List Instr) : (s.setPending v).params = s.params := rfl
@[simp] theorem setPending_dir (v : List Instr) : (s.setPending v).dir = s.dir := rfl
@[simp] theorem setPending_dirCounters (v : List Instr) : (s.setPending v).dirCounters = s.dirCounters := rfl
@[simp] theorem setPending_aging (v : List Instr) : (s.setPending v).aging = s.aging := rfl
@[simp] theorem setPending_store (v : List Instr) : (s.setPending v).store = s.store := rfl
@[simp] theorem setPending_trunks (v : List Instr) : (s.setPending v).trunks = s.trunks := rfl
@[simp] theorem setPending_hostEgress (v : List Instr) : (s.setPending v).hostEgress = s.hostEgress := rfl
@[simp] theorem setPending_link (v : List Instr) : (s.setPending v).link = s.link := rfl
@[simp] theorem setPending_free (v : List Instr) : (s.setPending v).free = s.free := rfl
@[simp] theorem setPending_wakes (v : List Instr) : (s.setPending v).wakes = s.wakes := rfl

@[simp] theorem setPending_setPending (v w : List Instr) : (s.setPending v).setPending w = s.setPending w := rfl
@[simp] theorem setPending_self : s.setPending s.pending = s := rfl

@[simp] theorem setClock_pending (v : Nat) : (s.setClock v).pending = s.pending := rfl
@[simp] theorem setClock_clock (v : Nat) : (s.setClock v).clock = v := rfl
@[simp] theorem setClock_inReset (v : Nat) : (s.setClock v).inReset = s.inReset := rfl
@[simp] theorem setClock_straps (v : Nat) : (s.setClock v).straps = s.straps := rfl
@[simp] theorem setClock_fltPins (v : Nat) : (s.setClock v).fltPins = s.fltPins := rfl
@[simp] theorem setClock_params (v : Nat) : (s.setClock v).params = s.params := rfl
@[simp] theorem setClock_dir (v : Nat) : (s.setClock v).dir = s.dir := rfl
@[simp] theorem setClock_dirCounters (v : Nat) : (s.setClock v).dirCounters = s.dirCounters := rfl
@[simp] theorem setClock_aging (v : Nat) : (s.setClock v).aging = s.aging := rfl
@[simp] theorem setClock_store (v : Nat) : (s.setClock v).store = s.store := rfl
@[simp] theorem setClock_trunks (v : Nat) : (s.setClock v).trunks = s.trunks := rfl
@[simp] theorem setClock_hostEgress (v : Nat) : (s.setClock v).hostEgress = s.hostEgress := rfl
@[simp] theorem setClock_link (v : Nat) : (s.setClock v).link = s.link := rfl
@[simp] theorem setClock_free (v : Nat) : (s.setClock v).free = s.free := rfl
@[simp] theorem setClock_wakes (v : Nat) : (s.setClock v).wakes = s.wakes := rfl

@[simp] theorem setClock_setClock (v w : Nat) : (s.setClock v).setClock w = s.setClock w := rfl
@[simp] theorem setClock_self : s.setClock s.clock = s := rfl

@[simp] theorem setInReset_pending (v : Bool) : (s.setInReset v).pending = s.pending := rfl
@[simp] theorem setInReset_clock (v : Bool) : (s.setInReset v).clock = s.clock := rfl
@[simp] theorem setInReset_inReset (v : Bool) : (s.setInReset v).inReset = v := rfl
@[simp] theorem setInReset_straps (v : Bool) : (s.setInReset v).straps = s.straps := rfl
@[simp] theorem setInReset_fltPins (v : Bool) : (s.setInReset v).fltPins = s.fltPins := rfl
@[simp] theorem setInReset_params (v : Bool) : (s.setInReset v).params = s.params := rfl
@[simp] theorem setInReset_dir (v : Bool) : (s.setInReset v).dir = s.dir := rfl
@[simp] theorem setInReset_dirCounters (v : Bool) : (s.setInReset v).dirCounters = s.dirCounters := rfl
@[simp] theorem setInReset_aging (v : Bool) : (s.setInReset v).aging = s.aging := rfl
@[simp] theorem setInReset_store (v : Bool) : (s.setInReset v).store = s.store := rfl
@[simp] theorem setInReset_trunks (v : Bool) : (s.setInReset v).trunks = s.trunks := rfl
@[simp] theorem setInReset_hostEgress (v : Bool) : (s.setInReset v).hostEgress = s.hostEgress := rfl
@[simp] theorem setInReset_link (v : Bool) : (s.setInReset v).link = s.link := rfl
@[simp] theorem setInReset_free (v : Bool) : (s.setInReset v).free = s.free := rfl
@[simp] theorem setInReset_wakes (v : Bool) : (s.setInReset v).wakes = s.wakes := rfl

@[simp] theorem setInReset_setInReset (v w : Bool) : (s.setInReset v).setInReset w = s.setInReset w := rfl
@[simp] theorem setInReset_self : s.setInReset s.inReset = s := rfl

@[simp] theorem setFltPins_pending (v : Quad Bool) : (s.setFltPins v).pending = s.pending := rfl
@[simp] theorem setFltPins_clock (v : Quad Bool) : (s.setFltPins v).clock = s.clock := rfl
@[simp] theorem setFltPins_inReset (v : Quad Bool) : (s.setFltPins v).inReset = s.inReset := rfl
@[simp] theorem setFltPins_straps (v : Quad Bool) : (s.setFltPins v).straps = s.straps := rfl
@[simp] theorem setFltPins_fltPins (v : Quad Bool) : (s.setFltPins v).fltPins = v := rfl
@[simp] theorem setFltPins_params (v : Quad Bool) : (s.setFltPins v).params = s.params := rfl
@[simp] theorem setFltPins_dir (v : Quad Bool) : (s.setFltPins v).dir = s.dir := rfl
@[simp] theorem setFltPins_dirCounters (v : Quad Bool) : (s.setFltPins v).dirCounters = s.dirCounters := rfl
@[simp] theorem setFltPins_aging (v : Quad Bool) : (s.setFltPins v).aging = s.aging := rfl
@[simp] theorem setFltPins_store (v : Quad Bool) : (s.setFltPins v).store = s.store := rfl
@[simp] theorem setFltPins_trunks (v : Quad Bool) : (s.setFltPins v).trunks = s.trunks := rfl
@[simp] theorem setFltPins_hostEgress (v : Quad Bool) : (s.setFltPins v).hostEgress = s.hostEgress := rfl
@[simp] theorem setFltPins_link (v : Quad Bool) : (s.setFltPins v).link = s.link := rfl
@[simp] theorem setFltPins_free (v : Quad Bool) : (s.setFltPins v).free = s.free := rfl
@[simp] theorem setFltPins_wakes (v : Quad Bool) : (s.setFltPins v).wakes = s.wakes := rfl

@[simp] theorem setFltPins_setFltPins (v w : Quad Bool) : (s.setFltPins v).setFltPins w = s.setFltPins w := rfl
@[simp] theorem setFltPins_self : s.setFltPins s.fltPins = s := rfl

@[simp] theorem setParams_pending (v : Params) : (s.setParams v).pending = s.pending := rfl
@[simp] theorem setParams_clock (v : Params) : (s.setParams v).clock = s.clock := rfl
@[simp] theorem setParams_inReset (v : Params) : (s.setParams v).inReset = s.inReset := rfl
@[simp] theorem setParams_straps (v : Params) : (s.setParams v).straps = s.straps := rfl
@[simp] theorem setParams_fltPins (v : Params) : (s.setParams v).fltPins = s.fltPins := rfl
@[simp] theorem setParams_params (v : Params) : (s.setParams v).params = v := rfl
@[simp] theorem setParams_dir (v : Params) : (s.setParams v).dir = s.dir := rfl
@[simp] theorem setParams_dirCounters (v : Params) : (s.setParams v).dirCounters = s.dirCounters := rfl
@[simp] theorem setParams_aging (v : Params) : (s.setParams v).aging = s.aging := rfl
@[simp] theorem setParams_store (v : Params) : (s.setParams v).store = s.store := rfl
@[simp] theorem setParams_trunks (v : Params) : (s.setParams v).trunks = s.trunks := rfl
@[simp] theorem setParams_hostEgress (v : Params) : (s.setParams v).hostEgress = s.hostEgress := rfl
@[simp] theorem setParams_link (v : Params) : (s.setParams v).link = s.link := rfl
@[simp] theorem setParams_free (v : Params) : (s.setParams v).free = s.free := rfl
@[simp] theorem setParams_wakes (v : Params) : (s.setParams v).wakes = s.wakes := rfl

@[simp] theorem setParams_setParams (v w : Params) : (s.setParams v).setParams w = s.setParams w := rfl
@[simp] theorem setParams_self : s.setParams s.params = s := rfl

@[simp] theorem setDir_pending (v : List DirEntry) : (s.setDir v).pending = s.pending := rfl
@[simp] theorem setDir_clock (v : List DirEntry) : (s.setDir v).clock = s.clock := rfl
@[simp] theorem setDir_inReset (v : List DirEntry) : (s.setDir v).inReset = s.inReset := rfl
@[simp] theorem setDir_straps (v : List DirEntry) : (s.setDir v).straps = s.straps := rfl
@[simp] theorem setDir_fltPins (v : List DirEntry) : (s.setDir v).fltPins = s.fltPins := rfl
@[simp] theorem setDir_params (v : List DirEntry) : (s.setDir v).params = s.params := rfl
@[simp] theorem setDir_dir (v : List DirEntry) : (s.setDir v).dir = v := rfl
@[simp] theorem setDir_dirCounters (v : List DirEntry) : (s.setDir v).dirCounters = s.dirCounters := rfl
@[simp] theorem setDir_aging (v : List DirEntry) : (s.setDir v).aging = s.aging := rfl
@[simp] theorem setDir_store (v : List DirEntry) : (s.setDir v).store = s.store := rfl
@[simp] theorem setDir_trunks (v : List DirEntry) : (s.setDir v).trunks = s.trunks := rfl
@[simp] theorem setDir_hostEgress (v : List DirEntry) : (s.setDir v).hostEgress = s.hostEgress := rfl
@[simp] theorem setDir_link (v : List DirEntry) : (s.setDir v).link = s.link := rfl
@[simp] theorem setDir_free (v : List DirEntry) : (s.setDir v).free = s.free := rfl
@[simp] theorem setDir_wakes (v : List DirEntry) : (s.setDir v).wakes = s.wakes := rfl

@[simp] theorem setDir_setDir (v w : List DirEntry) : (s.setDir v).setDir w = s.setDir w := rfl
@[simp] theorem setDir_self : s.setDir s.dir = s := rfl

@[simp] theorem setDirCounters_pending (v : DirCounters) : (s.setDirCounters v).pending = s.pending := rfl
@[simp] theorem setDirCounters_clock (v : DirCounters) : (s.setDirCounters v).clock = s.clock := rfl
@[simp] theorem setDirCounters_inReset (v : DirCounters) : (s.setDirCounters v).inReset = s.inReset := rfl
@[simp] theorem setDirCounters_straps (v : DirCounters) : (s.setDirCounters v).straps = s.straps := rfl
@[simp] theorem setDirCounters_fltPins (v : DirCounters) : (s.setDirCounters v).fltPins = s.fltPins := rfl
@[simp] theorem setDirCounters_params (v : DirCounters) : (s.setDirCounters v).params = s.params := rfl
@[simp] theorem setDirCounters_dir (v : DirCounters) : (s.setDirCounters v).dir = s.dir := rfl
@[simp] theorem setDirCounters_dirCounters (v : DirCounters) : (s.setDirCounters v).dirCounters = v := rfl
@[simp] theorem setDirCounters_aging (v : DirCounters) : (s.setDirCounters v).aging = s.aging := rfl
@[simp] theorem setDirCounters_store (v : DirCounters) : (s.setDirCounters v).store = s.store := rfl
@[simp] theorem setDirCounters_trunks (v : DirCounters) : (s.setDirCounters v).trunks = s.trunks := rfl
@[simp] theorem setDirCounters_hostEgress (v : DirCounters) : (s.setDirCounters v).hostEgress = s.hostEgress := rfl
@[simp] theorem setDirCounters_link (v : DirCounters) : (s.setDirCounters v).link = s.link := rfl
@[simp] theorem setDirCounters_free (v : DirCounters) : (s.setDirCounters v).free = s.free := rfl
@[simp] theorem setDirCounters_wakes (v : DirCounters) : (s.setDirCounters v).wakes = s.wakes := rfl

@[simp] theorem setDirCounters_setDirCounters (v w : DirCounters) : (s.setDirCounters v).setDirCounters w = s.setDirCounters w := rfl
@[simp] theorem setDirCounters_self : s.setDirCounters s.dirCounters = s := rfl

@[simp] theorem setAging_pending (v : MsTimer) : (s.setAging v).pending = s.pending := rfl
@[simp] theorem setAging_clock (v : MsTimer) : (s.setAging v).clock = s.clock := rfl
@[simp] theorem setAging_inReset (v : MsTimer) : (s.setAging v).inReset = s.inReset := rfl
@[simp] theorem setAging_straps (v : MsTimer) : (s.setAging v).straps = s.straps := rfl
@[simp] theorem setAging_fltPins (v : MsTimer) : (s.setAging v).fltPins = s.fltPins := rfl
@[simp] theorem setAging_params (v : MsTimer) : (s.setAging v).params = s.params := rfl
@[simp] theorem setAging_dir (v : MsTimer) : (s.setAging v).dir = s.dir := rfl
@[simp] theorem setAging_dirCounters (v : MsTimer) : (s.setAging v).dirCounters = s.dirCounters := rfl
@[simp] theorem setAging_aging (v : MsTimer) : (s.setAging v).aging = v := rfl
@[simp] theorem setAging_store (v : MsTimer) : (s.setAging v).store = s.store := rfl
@[simp] theorem setAging_trunks (v : MsTimer) : (s.setAging v).trunks = s.trunks := rfl
@[simp] theorem setAging_hostEgress (v : MsTimer) : (s.setAging v).hostEgress = s.hostEgress := rfl
@[simp] theorem setAging_link (v : MsTimer) : (s.setAging v).link = s.link := rfl
@[simp] theorem setAging_free (v : MsTimer) : (s.setAging v).free = s.free := rfl
@[simp] theorem setAging_wakes (v : MsTimer) : (s.setAging v).wakes = s.wakes := rfl

@[simp] theorem setAging_setAging (v w : MsTimer) : (s.setAging v).setAging w = s.setAging w := rfl
@[simp] theorem setAging_self : s.setAging s.aging = s := rfl

@[simp] theorem setStore_pending (v : Store) : (s.setStore v).pending = s.pending := rfl
@[simp] theorem setStore_clock (v : Store) : (s.setStore v).clock = s.clock := rfl
@[simp] theorem setStore_inReset (v : Store) : (s.setStore v).inReset = s.inReset := rfl
@[simp] theorem setStore_straps (v : Store) : (s.setStore v).straps = s.straps := rfl
@[simp] theorem setStore_fltPins (v : Store) : (s.setStore v).fltPins = s.fltPins := rfl
@[simp] theorem setStore_params (v : Store) : (s.setStore v).params = s.params := rfl
@[simp] theorem setStore_dir (v : Store) : (s.setStore v).dir = s.dir := rfl
@[simp] theorem setStore_dirCounters (v : Store) : (s.setStore v).dirCounters = s.dirCounters := rfl
@[simp] theorem setStore_aging (v : Store) : (s.setStore v).aging = s.aging := rfl
@[simp] theorem setStore_store (v : Store) : (s.setStore v).store = v := rfl
@[simp] theorem setStore_trunks (v : Store) : (s.setStore v).trunks = s.trunks := rfl
@[simp] theorem setStore_hostEgress (v : Store) : (s.setStore v).hostEgress = s.hostEgress := rfl
@[simp] theorem setStore_link (v : Store) : (s.setStore v).link = s.link := rfl
@[simp] theorem setStore_free (v : Store) : (s.setStore v).free = s.free := rfl
@[simp] theorem setStore_wakes (v : Store) : (s.setStore v).wakes = s.wakes := rfl

@[simp] theorem setStore_setStore (v w : Store) : (s.setStore v).setStore w = s.setStore w := rfl
@[simp] theorem setStore_self : s.setStore s.store = s := rfl

@[simp] theorem setTrunks_pending (v : Quad Trunk) : (s.setTrunks v).pending = s.pending := rfl
@[simp] theorem setTrunks_clock (v : Quad Trunk) : (s.setTrunks v).clock = s.clock := rfl
@[simp] theorem setTrunks_inReset (v : Quad Trunk) : (s.setTrunks v).inReset = s.inReset := rfl
@[simp] theorem setTrunks_straps (v : Quad Trunk) : (s.setTrunks v).straps = s.straps := rfl
@[simp] theorem setTrunks_fltPins (v : Quad Trunk) : (s.setTrunks v).fltPins = s.fltPins := rfl
@[simp] theorem setTrunks_params (v : Quad Trunk) : (s.setTrunks v).params = s.params := rfl
@[simp] theorem setTrunks_dir (v : Quad Trunk) : (s.setTrunks v).dir = s.dir := rfl
@[simp] theorem setTrunks_dirCounters (v : Quad Trunk) : (s.setTrunks v).dirCounters = s.dirCounters := rfl
@[simp] theorem setTrunks_aging (v : Quad Trunk) : (s.setTrunks v).aging = s.aging := rfl
@[simp] theorem setTrunks_store (v : Quad Trunk) : (s.setTrunks v).store = s.store := rfl
@[simp] theorem setTrunks_trunks (v : Quad Trunk) : (s.setTrunks v).trunks = v := rfl
@[simp] theorem setTrunks_hostEgress (v : Quad Trunk) : (s.setTrunks v).hostEgress = s.hostEgress := rfl
@[simp] theorem setTrunks_link (v : Quad Trunk) : (s.setTrunks v).link = s.link := rfl
@[simp] theorem setTrunks_free (v : Quad Trunk) : (s.setTrunks v).free = s.free := rfl
@[simp] theorem setTrunks_wakes (v : Quad Trunk) : (s.setTrunks v).wakes = s.wakes := rfl

@[simp] theorem setTrunks_setTrunks (v w : Quad Trunk) : (s.setTrunks v).setTrunks w = s.setTrunks w := rfl
@[simp] theorem setTrunks_self : s.setTrunks s.trunks = s := rfl

@[simp] theorem setHostEgress_pending (v : Quad (List QEntry)) : (s.setHostEgress v).pending = s.pending := rfl
@[simp] theorem setHostEgress_clock (v : Quad (List QEntry)) : (s.setHostEgress v).clock = s.clock := rfl
@[simp] theorem setHostEgress_inReset (v : Quad (List QEntry)) : (s.setHostEgress v).inReset = s.inReset := rfl
@[simp] theorem setHostEgress_straps (v : Quad (List QEntry)) : (s.setHostEgress v).straps = s.straps := rfl
@[simp] theorem setHostEgress_fltPins (v : Quad (List QEntry)) : (s.setHostEgress v).fltPins = s.fltPins := rfl
@[simp] theorem setHostEgress_params (v : Quad (List QEntry)) : (s.setHostEgress v).params = s.params := rfl
@[simp] theorem setHostEgress_dir (v : Quad (List QEntry)) : (s.setHostEgress v).dir = s.dir := rfl
@[simp] theorem setHostEgress_dirCounters (v : Quad (List QEntry)) : (s.setHostEgress v).dirCounters = s.dirCounters := rfl
@[simp] theorem setHostEgress_aging (v : Quad (List QEntry)) : (s.setHostEgress v).aging = s.aging := rfl
@[simp] theorem setHostEgress_store (v : Quad (List QEntry)) : (s.setHostEgress v).store = s.store := rfl
@[simp] theorem setHostEgress_trunks (v : Quad (List QEntry)) : (s.setHostEgress v).trunks = s.trunks := rfl
@[simp] theorem setHostEgress_hostEgress (v : Quad (List QEntry)) : (s.setHostEgress v).hostEgress = v := rfl
@[simp] theorem setHostEgress_link (v : Quad (List QEntry)) : (s.setHostEgress v).link = s.link := rfl
@[simp] theorem setHostEgress_free (v : Quad (List QEntry)) : (s.setHostEgress v).free = s.free := rfl
@[simp] theorem setHostEgress_wakes (v : Quad (List QEntry)) : (s.setHostEgress v).wakes = s.wakes := rfl

@[simp] theorem setHostEgress_setHostEgress (v w : Quad (List QEntry)) : (s.setHostEgress v).setHostEgress w = s.setHostEgress w := rfl
@[simp] theorem setHostEgress_self : s.setHostEgress s.hostEgress = s := rfl

@[simp] theorem setLink_pending (v : HostLink) : (s.setLink v).pending = s.pending := rfl
@[simp] theorem setLink_clock (v : HostLink) : (s.setLink v).clock = s.clock := rfl
@[simp] theorem setLink_inReset (v : HostLink) : (s.setLink v).inReset = s.inReset := rfl
@[simp] theorem setLink_straps (v : HostLink) : (s.setLink v).straps = s.straps := rfl
@[simp] theorem setLink_fltPins (v : HostLink) : (s.setLink v).fltPins = s.fltPins := rfl
@[simp] theorem setLink_params (v : HostLink) : (s.setLink v).params = s.params := rfl
@[simp] theorem setLink_dir (v : HostLink) : (s.setLink v).dir = s.dir := rfl
@[simp] theorem setLink_dirCounters (v : HostLink) : (s.setLink v).dirCounters = s.dirCounters := rfl
@[simp] theorem setLink_aging (v : HostLink) : (s.setLink v).aging = s.aging := rfl
@[simp] theorem setLink_store (v : HostLink) : (s.setLink v).store = s.store := rfl
@[simp] theorem setLink_trunks (v : HostLink) : (s.setLink v).trunks = s.trunks := rfl
@[simp] theorem setLink_hostEgress (v : HostLink) : (s.setLink v).hostEgress = s.hostEgress := rfl
@[simp] theorem setLink_link (v : HostLink) : (s.setLink v).link = v := rfl
@[simp] theorem setLink_free (v : HostLink) : (s.setLink v).free = s.free := rfl
@[simp] theorem setLink_wakes (v : HostLink) : (s.setLink v).wakes = s.wakes := rfl

@[simp] theorem setLink_setLink (v w : HostLink) : (s.setLink v).setLink w = s.setLink w := rfl
@[simp] theorem setLink_self : s.setLink s.link = s := rfl

@[simp] theorem setFree_pending (v : Nat) : (s.setFree v).pending = s.pending := rfl
@[simp] theorem setFree_clock (v : Nat) : (s.setFree v).clock = s.clock := rfl
@[simp] theorem setFree_inReset (v : Nat) : (s.setFree v).inReset = s.inReset := rfl
@[simp] theorem setFree_straps (v : Nat) : (s.setFree v).straps = s.straps := rfl
@[simp] theorem setFree_fltPins (v : Nat) : (s.setFree v).fltPins = s.fltPins := rfl
@[simp] theorem setFree_params (v : Nat) : (s.setFree v).params = s.params := rfl
@[simp] theorem setFree_dir (v : Nat) : (s.setFree v).dir = s.dir := rfl
@[simp] theorem setFree_dirCounters (v : Nat) : (s.setFree v).dirCounters = s.dirCounters := rfl
@[simp] theorem setFree_aging (v : Nat) : (s.setFree v).aging = s.aging := rfl
@[simp] theorem setFree_store (v : Nat) : (s.setFree v).store = s.store := rfl
@[simp] theorem setFree_trunks (v : Nat) : (s.setFree v).trunks = s.trunks := rfl
@[simp] theorem setFree_hostEgress (v : Nat) : (s.setFree v).hostEgress = s.hostEgress := rfl
@[simp] theorem setFree_link (v : Nat) : (s.setFree v).link = s.link := rfl
@[simp] theorem setFree_free (v : Nat) : (s.setFree v).free = v := rfl
@[simp] theorem setFree_wakes (v : Nat) : (s.setFree v).wakes = s.wakes := rfl

@[simp] theorem setFree_setFree (v w : Nat) : (s.setFree v).setFree w = s.setFree w := rfl
@[simp] theorem setFree_self : s.setFree s.free = s := rfl

@[simp] theorem setWakes_pending (v : Quad Bool) : (s.setWakes v).pending = s.pending := rfl
@[simp] theorem setWakes_clock (v : Quad Bool) : (s.setWakes v).clock = s.clock := rfl
@[simp] theorem setWakes_inReset (v : Quad Bool) : (s.setWakes v).inReset = s.inReset := rfl
@[simp] theorem setWakes_straps (v : Quad Bool) : (s.setWakes v).straps = s.straps := rfl
@[simp] theorem setWakes_fltPins (v : Quad Bool) : (s.setWakes v).fltPins = s.fltPins := rfl
@[simp] theorem setWakes_params (v : Quad Bool) : (s.setWakes v).params = s.params := rfl
@[simp] theorem setWakes_dir (v : Quad Bool) : (s.setWakes v).dir = s.dir := rfl
@[simp] theorem setWakes_dirCounters (v : Quad Bool) : (s.setWakes v).dirCounters = s.dirCounters := rfl
@[simp] theorem setWakes_aging (v : Quad Bool) : (s.setWakes v).aging = s.aging := rfl
@[simp] theorem setWakes_store (v : Quad Bool) : (s.setWakes v).store = s.store := rfl
@[simp] theorem setWakes_trunks (v : Quad Bool) : (s.setWakes v).trunks = s.trunks := rfl
@[simp] theorem setWakes_hostEgress (v : Quad Bool) : (s.setWakes v).hostEgress = s.hostEgress := rfl
@[simp] theorem setWakes_link (v : Quad Bool) : (s.setWakes v).link = s.link := rfl
@[simp] theorem setWakes_free (v : Quad Bool) : (s.setWakes v).free = s.free := rfl
@[simp] theorem setWakes_wakes (v : Quad Bool) : (s.setWakes v).wakes = v := rfl

@[simp] theorem setWakes_setWakes (v w : Quad Bool) : (s.setWakes v).setWakes w = s.setWakes w := rfl
@[simp] theorem setWakes_self : s.setWakes s.wakes = s := rfl

/-! ### A trunk's record and the host link's -/

@[simp] theorem modTrunk_pending (t : TrunkId) (f : Trunk → Trunk) : (s.modTrunk t f).pending = s.pending := rfl
@[simp] theorem modTrunk_clock (t : TrunkId) (f : Trunk → Trunk) : (s.modTrunk t f).clock = s.clock := rfl
@[simp] theorem modTrunk_inReset (t : TrunkId) (f : Trunk → Trunk) : (s.modTrunk t f).inReset = s.inReset := rfl
@[simp] theorem modTrunk_straps (t : TrunkId) (f : Trunk → Trunk) : (s.modTrunk t f).straps = s.straps := rfl
@[simp] theorem modTrunk_fltPins (t : TrunkId) (f : Trunk → Trunk) : (s.modTrunk t f).fltPins = s.fltPins := rfl
@[simp] theorem modTrunk_params (t : TrunkId) (f : Trunk → Trunk) : (s.modTrunk t f).params = s.params := rfl
@[simp] theorem modTrunk_dir (t : TrunkId) (f : Trunk → Trunk) : (s.modTrunk t f).dir = s.dir := rfl
@[simp] theorem modTrunk_dirCounters (t : TrunkId) (f : Trunk → Trunk) : (s.modTrunk t f).dirCounters = s.dirCounters := rfl
@[simp] theorem modTrunk_aging (t : TrunkId) (f : Trunk → Trunk) : (s.modTrunk t f).aging = s.aging := rfl
@[simp] theorem modTrunk_store (t : TrunkId) (f : Trunk → Trunk) : (s.modTrunk t f).store = s.store := rfl
@[simp] theorem modTrunk_hostEgress (t : TrunkId) (f : Trunk → Trunk) : (s.modTrunk t f).hostEgress = s.hostEgress := rfl
@[simp] theorem modTrunk_link (t : TrunkId) (f : Trunk → Trunk) : (s.modTrunk t f).link = s.link := rfl
@[simp] theorem modTrunk_free (t : TrunkId) (f : Trunk → Trunk) : (s.modTrunk t f).free = s.free := rfl
@[simp] theorem modTrunk_wakes (t : TrunkId) (f : Trunk → Trunk) : (s.modTrunk t f).wakes = s.wakes := rfl

@[simp] theorem modLink_pending (f : HostLink → HostLink) : (s.modLink f).pending = s.pending := rfl
@[simp] theorem modLink_clock (f : HostLink → HostLink) : (s.modLink f).clock = s.clock := rfl
@[simp] theorem modLink_inReset (f : HostLink → HostLink) : (s.modLink f).inReset = s.inReset := rfl
@[simp] theorem modLink_straps (f : HostLink → HostLink) : (s.modLink f).straps = s.straps := rfl
@[simp] theorem modLink_fltPins (f : HostLink → HostLink) : (s.modLink f).fltPins = s.fltPins := rfl
@[simp] theorem modLink_params (f : HostLink → HostLink) : (s.modLink f).params = s.params := rfl
@[simp] theorem modLink_dir (f : HostLink → HostLink) : (s.modLink f).dir = s.dir := rfl
@[simp] theorem modLink_dirCounters (f : HostLink → HostLink) : (s.modLink f).dirCounters = s.dirCounters := rfl
@[simp] theorem modLink_aging (f : HostLink → HostLink) : (s.modLink f).aging = s.aging := rfl
@[simp] theorem modLink_store (f : HostLink → HostLink) : (s.modLink f).store = s.store := rfl
@[simp] theorem modLink_trunks (f : HostLink → HostLink) : (s.modLink f).trunks = s.trunks := rfl
@[simp] theorem modLink_hostEgress (f : HostLink → HostLink) : (s.modLink f).hostEgress = s.hostEgress := rfl
@[simp] theorem modLink_link (f : HostLink → HostLink) : (s.modLink f).link = f s.link := rfl
@[simp] theorem modLink_free (f : HostLink → HostLink) : (s.modLink f).free = s.free := rfl
@[simp] theorem modLink_wakes (f : HostLink → HostLink) : (s.modLink f).wakes = s.wakes := rfl

theorem modTrunk_trunk (t u : TrunkId) (f : Trunk → Trunk) :
    (s.modTrunk t f).trunk u = if u = t then f (s.trunk t) else s.trunk u := Quad.get_set _ _ _ _

@[simp] theorem modTrunk_trunk_self (t : TrunkId) (f : Trunk → Trunk) : (s.modTrunk t f).trunk t = f (s.trunk t) :=
  Quad.get_set_self _ _ _

theorem modTrunk_trunk_of_ne {t u : TrunkId} (f : Trunk → Trunk) (h : u ≠ t) : (s.modTrunk t f).trunk u = s.trunk u :=
  Quad.get_set_of_ne _ _ h

@[simp] theorem modTrunk_modTrunk (t : TrunkId) (f g : Trunk → Trunk) :
    (s.modTrunk t f).modTrunk t g = s.modTrunk t (fun k => g (f k)) := by
  simp [modTrunk, trunk]

@[simp] theorem modLink_modLink (f g : HostLink → HostLink) :
    (s.modLink f).modLink g = s.modLink (fun l => g (f l)) := rfl

theorem modTrunk_congr {t : TrunkId} {f g : Trunk → Trunk} (h : f (s.trunk t) = g (s.trunk t)) :
    s.modTrunk t f = s.modTrunk t g := by
  unfold modTrunk
  rw [h]

theorem modTrunk_id_of_eq {t : TrunkId} {f : Trunk → Trunk} (h : f (s.trunk t) = s.trunk t) : s.modTrunk t f = s := by
  unfold modTrunk
  rw [h]
  simp [trunk]

@[simp] theorem setPending_trunk (v : List Instr) (t : TrunkId) : (s.setPending v).trunk t = s.trunk t := rfl
@[simp] theorem setClock_trunk (v : Nat) (t : TrunkId) : (s.setClock v).trunk t = s.trunk t := rfl
@[simp] theorem setInReset_trunk (v : Bool) (t : TrunkId) : (s.setInReset v).trunk t = s.trunk t := rfl
@[simp] theorem setFltPins_trunk (v : Quad Bool) (t : TrunkId) : (s.setFltPins v).trunk t = s.trunk t := rfl
@[simp] theorem setParams_trunk (v : Params) (t : TrunkId) : (s.setParams v).trunk t = s.trunk t := rfl
@[simp] theorem setDir_trunk (v : List DirEntry) (t : TrunkId) : (s.setDir v).trunk t = s.trunk t := rfl
@[simp] theorem setDirCounters_trunk (v : DirCounters) (t : TrunkId) : (s.setDirCounters v).trunk t = s.trunk t := rfl
@[simp] theorem setAging_trunk (v : MsTimer) (t : TrunkId) : (s.setAging v).trunk t = s.trunk t := rfl
@[simp] theorem setStore_trunk (v : Store) (t : TrunkId) : (s.setStore v).trunk t = s.trunk t := rfl
@[simp] theorem setHostEgress_trunk (v : Quad (List QEntry)) (t : TrunkId) : (s.setHostEgress v).trunk t = s.trunk t := rfl
@[simp] theorem setLink_trunk (v : HostLink) (t : TrunkId) : (s.setLink v).trunk t = s.trunk t := rfl
@[simp] theorem setFree_trunk (v : Nat) (t : TrunkId) : (s.setFree v).trunk t = s.trunk t := rfl
@[simp] theorem setWakes_trunk (v : Quad Bool) (t : TrunkId) : (s.setWakes v).trunk t = s.trunk t := rfl
@[simp] theorem modLink_trunk (f : HostLink → HostLink) (t : TrunkId) : (s.modLink f).trunk t = s.trunk t := rfl

end Machine.State

end Sys2Proof
end

