-- ==== Sys2Proof/Laws/Service.lean ====
section
/-!
SUPPORT. What the blocks may do on their own inside an event, said once: a service is one such act, and every shared operation from the
raising of a notice to the end of an event is a chain of services. What no service changes then holds of all of them.
-/

namespace Sys2Proof.Machine

/-! ### Services -/

/-- A station kind that counts among the 64 places. -/
def StationKind.isPinned : StationKind → Bool
  | .dynamic _ _ _ => false
  | .pinned _ _ _ => true

theorem placed_station (n : Num) (st : Station) : DirEntry.placed ⟨n, .station st⟩ = st.kind.isPinned := by
  cases h : st.kind <;> simp [DirEntry.placed, StationKind.isPinned, h]

/-- What a service may do to the host link, `window` being the NOTICE_WINDOW in force. -/
structure LinkService (window : Nat) (l l' : HostLink) : Prop where
  credit : l'.credit ≤ l.credit
  pending : l'.pendingNotices.length ≤ max l.pendingNotices.length Config.noticeRoom
  unacked : l'.unacked.length ≤ max l.unacked.length window
  restart : l'.restart = l.restart
  cache : l'.cache = l.cache
  rx : l'.rx = l.rx
  replies : l'.replies <:+ l.replies

/-- What a service may do to a trunk's record other than its FIFOs: it changes neither mode nor line state, and begins a
transaction only in SURVEY or CARRY with a SOUND line. -/
structure TrunkService (k k' : Trunk) : Prop where
  mode : k'.mode = k.mode
  line : k'.line = k.line
  bitRate : k'.bitRate = k.bitRate
  fifo : k'.egress.fifo = k.egress.fifo
  txn : k'.txn.isSome → k.txn.isSome ∨ k.listening = true

/-- One act of a block. -/
inductive Service : State → State → Prop
  | wakes (s : State) (v : Quad Bool) : Service s (s.setWakes v)
  | dirCounters (s : State) (v : DirCounters) : Service s (s.setDirCounters v)
  | link (s : State) (f : HostLink → HostLink) (h : LinkService s.params.noticeWindow s.link (f s.link)) :
      Service s (s.modLink f)
  | station (s : State) (n : Num) (st st' : Station) (h : s.station n = some st)
      (hk : st'.kind.isPinned = true → st.kind.isPinned = true) : Service s (putStation n st' s)
  | drop (s : State) (n : Num) : Service s (dropEntry n s)
  | release (s : State) (n : Nat) (k : Ticket) (h : s.ticket n = some k) : Service s (s.setStore (s.store.release k))
  | ticket (s : State) (n : Nat) (k k' : Ticket) (h : s.ticket n = some k) (hn : k'.num = k.num) (hp : k'.port = k.port)
      (hb : k'.blocks = k.blocks) : Service s (putTicket k' s)
  | mark (s : State) (st : Store) (ht : st.tickets = s.store.tickets) (hf : st.freeBlocks = s.store.freeBlocks)
      (ho : st.occ = s.store.occ) : Service s (s.setStore st)
  | trunk (s : State) (t : TrunkId) (f : Trunk → Trunk) (h : TrunkService (s.trunk t) (f (s.trunk t))) :
      Service s (s.modTrunk t f)
  | fifo (s : State) (e : Port) (c : Cls) (q : List QEntry) (h : q.length ≤ (s.fifo e c).length) :
      Service s (setFifo e c q s)
  | append (s : State) (e : Port) (c : Cls) (q : QEntry) (h : s.hasRoom e = true) :
      Service s (setFifo e c (s.fifo e c ++ [q]) s)

/-- A chain of services. -/
inductive Services : State → State → Prop
  | refl (s : State) : Services s s
  | tail {s t u : State} (h : Services s t) (h1 : Service t u) : Services s u

theorem Service.once {s s' : State} (h : Service s s') : Services s s' := .tail (.refl s) h

theorem Services.trans {s t u : State} (h : Services s t) (h1 : Services t u) : Services s u := by
  induction h1 with
  | refl => exact h
  | tail _ h2 ih => exact .tail ih h2

/-- What a chain of services keeps, given that each service keeps it. -/
theorem Services.keep {α : Type} (g : State → α) (h : ∀ s s', Service s s' → g s' = g s) {s s' : State}
    (hs : Services s s') : g s' = g s := by
  induction hs with
  | refl => rfl
  | tail _ h1 ih => rw [h _ _ h1, ih]

/-! ### What services leave unchanged -/

section Unchanged

variable {s s' : State}

theorem Service.kept (h : Service s s') :
    s'.pending = s.pending ∧ s'.clock = s.clock ∧ s'.inReset = s.inReset ∧ s'.straps = s.straps ∧
      s'.fltPins = s.fltPins ∧ s'.params = s.params ∧ s'.aging = s.aging ∧ s'.free = s.free := by
  cases h with
  | fifo e _ _ _ => cases e <;> simp [setFifo]
  | append e _ _ _ => cases e <;> simp [setFifo]
  | _ => simp [putStation, dropEntry, putTicket]

theorem Services.pending (h : Services s s') : s'.pending = s.pending := h.keep _ fun _ _ k => k.kept.1
theorem Services.clock (h : Services s s') : s'.clock = s.clock := h.keep _ fun _ _ k => k.kept.2.1
theorem Services.inReset (h : Services s s') : s'.inReset = s.inReset := h.keep _ fun _ _ k => k.kept.2.2.1
theorem Services.straps (h : Services s s') : s'.straps = s.straps := h.keep _ fun _ _ k => k.kept.2.2.2.1
theorem Services.fltPins (h : Services s s') : s'.fltPins = s.fltPins := h.keep _ fun _ _ k => k.kept.2.2.2.2.1
theorem Services.params (h : Services s s') : s'.params = s.params := h.keep _ fun _ _ k => k.kept.2.2.2.2.2.1
theorem Services.aging (h : Services s s') : s'.aging = s.aging := h.keep _ fun _ _ k => k.kept.2.2.2.2.2.2.1
theorem Services.free (h : Services s s') : s'.free = s.free := h.keep _ fun _ _ k => k.kept.2.2.2.2.2.2.2

theorem Service.trunkKept (h : Service s s') (t : TrunkId) :
    (s'.trunk t).mode = (s.trunk t).mode ∧ (s'.trunk t).line = (s.trunk t).line ∧
      (s'.trunk t).bitRate = (s.trunk t).bitRate := by
  cases h with
  | trunk u f h =>
    rw [State.modTrunk_trunk]
    by_cases e : t = u
    · subst e
      simp [h.mode, h.line, h.bitRate]
    · simp [e]
  | fifo e c q _ =>
    cases e with
    | host => simp [setFifo]
    | trunk u =>
      simp only [setFifo, State.modTrunk_trunk]
      by_cases e : t = u
      · subst e
        simp
      · simp [e]
  | append e c q _ =>
    cases e with
    | host => simp [setFifo]
    | trunk u =>
      simp only [setFifo, State.modTrunk_trunk]
      by_cases e : t = u
      · subst e
        simp
      · simp [e]
  | _ => simp [putStation, dropEntry, putTicket]

theorem Services.mode (h : Services s s') (t : TrunkId) : (s'.trunk t).mode = (s.trunk t).mode :=
  h.keep (fun x => (x.trunk t).mode) fun _ _ k => (k.trunkKept t).1

theorem Services.line (h : Services s s') (t : TrunkId) : (s'.trunk t).line = (s.trunk t).line :=
  h.keep (fun x => (x.trunk t).line) fun _ _ k => (k.trunkKept t).2.1

theorem Services.bitRate (h : Services s s') (t : TrunkId) : (s'.trunk t).bitRate = (s.trunk t).bitRate :=
  h.keep (fun x => (x.trunk t).bitRate) fun _ _ k => (k.trunkKept t).2.2

theorem Services.listening (h : Services s s') (t : TrunkId) : (s'.trunk t).listening = (s.trunk t).listening := by
  simp [Trunk.listening, h.mode t, h.line t]

theorem Service.linkKept (h : Service s s') : LinkService s.params.noticeWindow s.link s'.link := by
  cases h with
  | link f h => exact h
  | fifo e _ _ _ => cases e <;> exact ⟨by simp [setFifo], by simp [setFifo], by simp [setFifo], by simp [setFifo],
      by simp [setFifo], by simp [setFifo], by simp [setFifo]⟩
  | append e _ _ _ => cases e <;> exact ⟨by simp [setFifo], by simp [setFifo], by simp [setFifo], by simp [setFifo],
      by simp [setFifo], by simp [setFifo], by simp [setFifo]⟩
  | _ => exact ⟨by simp [putStation, dropEntry, putTicket], by simp [putStation, dropEntry, putTicket],
      by simp [putStation, dropEntry, putTicket], by simp [putStation, dropEntry, putTicket],
      by simp [putStation, dropEntry, putTicket], by simp [putStation, dropEntry, putTicket],
      by simp [putStation, dropEntry, putTicket]⟩

theorem LinkService.refl (w : Nat) (l : HostLink) : LinkService w l l :=
  ⟨le_rfl, le_max_left _ _, le_max_left _ _, rfl, rfl, rfl, List.suffix_rfl⟩

theorem LinkService.trans {w : Nat} {l m n : HostLink} (a : LinkService w l m) (b : LinkService w m n) :
    LinkService w l n where
  credit := b.credit.trans a.credit
  pending := by
    have := a.pending
    have := b.pending
    omega
  unacked := by
    have := a.unacked
    have := b.unacked
    omega
  restart := b.restart.trans a.restart
  cache := b.cache.trans a.cache
  rx := b.rx.trans a.rx
  replies := b.replies.trans a.replies

theorem Services.link (h : Services s s') : LinkService s.params.noticeWindow s.link s'.link := by
  induction h with
  | refl => exact .refl _ _
  | tail h0 h1 ih =>
    have := h1.linkKept
    rw [Services.params h0] at this
    exact ih.trans this

end Unchanged

/-! ### The shared operations as chains of services -/

section Chains

variable (s : State)

theorem wake_services (t : TrunkId) : Services s (wake t s) := by
  unfold wake
  split
  · exact (Service.wakes _ _).once
  · exact .refl _

theorem wakeHome_services (h : Option TrunkId) : Services s (wakeHome h s) := by
  unfold wakeHome
  split
  · exact wake_services _ _
  · exact .refl _

theorem wakeAll_services : Services s (wakeAll s) :=
  ((wake_services s 0).trans (wake_services _ 1)).trans ((wake_services _ 2).trans (wake_services _ 3))

theorem countTrunk_services (t : TrunkId) (f : TrunkCounters → TrunkCounters) : Services s (countTrunk t f s) :=
  (Service.trunk _ _ _ ⟨rfl, rfl, rfl, rfl, Or.inl⟩).once

theorem countLink_services (f : LinkCounters → LinkCounters) : Services s (countLink f s) :=
  (Service.link _ _ ⟨le_rfl, le_max_left _ _, le_max_left _ _, rfl, rfl, rfl, List.suffix_rfl⟩).once

theorem countDir_services (f : DirCounters → DirCounters) : Services s (countDir f s) := (Service.dirCounters _ _).once

theorem raise_services (f : NoticeFields) : Services s (raise f s) := by
  unfold raise
  split
  · split
    · exact ((Service.link s _ ⟨le_rfl, le_max_left _ _, le_max_left _ _, rfl, rfl, rfl, List.suffix_rfl⟩).once).trans
        (countLink_services _ _)
    · next h =>
      refine (Service.link s _ ⟨le_rfl, ?_, le_max_left _ _, rfl, rfl, rfl, List.suffix_rfl⟩).once
      simp only [List.length_append, List.length_cons, List.length_nil]
      omega
  · exact .refl _

theorem putStation_services {n : Num} {st st' : Station} (h : s.station n = some st)
    (hk : st'.kind.isPinned = true → st.kind.isPinned = true) : Services s (putStation n st' s) :=
  (Service.station s n st st' h hk).once

theorem dropEntry_services (n : Num) : Services s (dropEntry n s) := (Service.drop s n).once

theorem heardKind_isPinned (k : StationKind) : k.heard.isPinned = k.isPinned := by cases k <;> rfl

theorem heard_services (t : TrunkId) (n : Num) : Services s (heard t n s) := by
  unfold heard
  split
  · exact .refl _
  · next st h =>
    split
    · have hp : Services s (putStation n { st with missed := 0, state := .active, kind := st.kind.heard } s) :=
        putStation_services s h (by simp [heardKind_isPinned])
      split
      · exact hp.trans ((raise_services _ _).trans (wake_services _ _))
      · exact hp
    · exact .refl _

theorem missed_services (t : TrunkId) (n : Num) : Services s (missed t n s) := by
  unfold missed
  split
  · exact .refl _
  · next st h =>
    split
    · split
      · exact (putStation_services s h (by intro x; exact x)).trans ((raise_services _ _).trans (wake_services _ _))
      · exact putStation_services s h (by intro x; exact x)
    · exact .refl _

theorem removeStation_services (n : Num) (st : Station) (c : Cause) : Services s (removeStation n st c s) := by
  unfold removeStation
  have h := (dropEntry_services s n).trans (raise_services (dropEntry n s) (.gone n c))
  simp only
  split
  · exact (h.trans (countDir_services _ _)).trans (wakeHome_services _ _)
  · exact h.trans (wakeHome_services _ _)

theorem setResync_services (t : TrunkId) (n : Num) : Services s (setResync t n s) := by
  unfold setResync
  split
  · exact .refl _
  · next st h =>
    split
    · exact putStation_services s h (by intro x; exact x)
    · exact .refl _

theorem acknowledged_services (t : TrunkId) (n : Num) : Services s (acknowledged t n s) := by
  unfold acknowledged
  split
  · exact .refl _
  · next st h =>
    split
    · exact (putStation_services s h (by intro x; exact x)).trans (heard_services _ _ _)
    · exact .refl _

theorem releaseSource_services (n : Num) (b : Nat) : Services s (releaseSource n b s) := by
  unfold releaseSource
  split
  · exact .refl _
  · next st h =>
    have hp : Services s (putStation n { st with held := st.held - b } s) := putStation_services s h (by intro x; exact x)
    simp only
    split
    · split
      · exact hp.trans (removeStation_services _ _ _ _)
      · split
        · exact hp.trans (wakeHome_services _ _)
        · exact hp
    · split
      · exact hp.trans (wakeHome_services _ _)
      · exact hp

theorem chargeSource_services (t : TrunkId) (n : Num) (m : Bool) (b : Nat) : Services s (chargeSource t n m b s) := by
  unfold chargeSource
  split
  · exact .refl _
  · next st h => exact putStation_services s h (by intro x; exact x)

theorem scanEntry_services (n : Num) : Services s (scanEntry n s) := by
  unfold scanEntry
  split
  · exact .refl _
  · next st h =>
    split
    · exact .refl _
    · next hk =>
      split
      · exact putStation_services s h (by simp [StationKind.isPinned])
      · split
        · exact removeStation_services _ _ _ _
        · split
          · exact putStation_services s h (by simp [StationKind.isPinned])
          · exact .refl _

theorem closeEntry_services (t : TrunkId) (n : Num) : Services s (closeEntry t n s) := by
  unfold closeEntry
  split
  · exact .refl _
  · next st h =>
    split
    · split
      · split
        · exact (dropEntry_services s n).trans (raise_services _ _)
        · exact putStation_services s h (by simp [StationKind.isPinned])
      · next hk =>
        have hp : Services s (putStation n { st with missed := Config.missLimit, state := .silent } s) :=
          putStation_services s h (by intro x; exact x)
        simp only
        split
        · exact hp.trans (raise_services _ _)
        · exact hp
    · exact .refl _

/-- A chain of services over a list is a chain of services. -/
theorem foldl_services {α : Type} (f : State → α → State) (h : ∀ s a, Services s (f s a)) (l : List α) (s : State) :
    Services s (l.foldl f s) := by
  induction l generalizing s with
  | nil => exact .refl _
  | cons a l ih => exact (h s a).trans (ih _)

theorem agingScan_services : Services s (agingScan s) := foldl_services _ (fun s n => scanEntry_services s n) _ _

theorem closingEffects_services (t : TrunkId) : Services s (closingEffects t s) :=
  foldl_services _ (fun s n => closeEntry_services s t n) _ _

/-! ### The store -/

theorem testLow_services : Services s (testLow s) := by
  unfold testLow
  split
  · exact ((Service.mark s _ (by rfl) (by rfl) (by rfl)).once).trans (raise_services _ _)
  · exact .refl _

theorem testRecovered_services : Services s (testRecovered s) := by
  unfold testRecovered
  split
  · exact ((Service.mark s _ (by rfl) (by rfl) (by rfl)).once).trans (raise_services _ _)
  · exact .refl _

theorem countFailure_services (r : Reason) : Services s (countFailure r s) := by
  cases r
  case pool | tickets | portLimit => exact (Service.mark s _ (by rfl) (by rfl) (by rfl)).once
  all_goals exact .refl _

theorem releaseFilling_services (n : Nat) : Services s (releaseFilling n s) := by
  unfold releaseFilling
  split
  · exact .refl _
  · next k h => exact ((Service.release s n k h).once).trans (testRecovered_services _)

theorem giveBack_services (h : Option Held) : Services s (giveBack h s) := by
  unfold giveBack
  split
  · exact releaseFilling_services _ _
  · exact .refl _
  · exact .refl _

theorem reportRelease_services (k : Ticket) : Services s (reportRelease k s) := by
  unfold reportRelease
  split
  · exact releaseSource_services _ _ _
  · exact .refl _

theorem dropRef_services (n : Nat) : Services s (dropRef n s) := by
  unfold dropRef
  split
  · exact .refl _
  · next k h =>
    split
    · exact ((Service.release s n k h).once).trans ((reportRelease_services _ _).trans (testRecovered_services _))
    · exact (Service.ticket s n k _ h (by rfl) (by rfl) (by rfl)).once

theorem storeTicket_services (n r : Nat) : Services s (storeTicket n r s) := by
  unfold storeTicket
  split
  · exact .refl _
  · next k h => exact (Service.ticket s n k _ h (by rfl) (by rfl) (by rfl)).once

theorem fillTicket_services (n : Nat) (d : Num) (c : Byte) (data : List Byte) : Services s (fillTicket n d c data s) := by
  unfold fillTicket
  split
  · exact .refl _
  · next k h => exact (Service.ticket s n k _ h (by rfl) (by rfl) (by rfl)).once

/-! ### The egresses -/

theorem popHead_services (e : Port) (c : Cls) : Services s (popHead e c s) :=
  (Service.fifo s e c _ (by simp)).once

/-- A head replaced, where there is one. -/
theorem setHead_services {e : Port} {c : Cls} {q : QEntry} {qs : List QEntry} (h : s.fifo e c = q :: qs) (q' : QEntry) :
    Services s (setHead e c q' s) :=
  (Service.fifo s e c _ (by simp [h])).once

theorem wakePort_services (e : Port) : Services s (wakePort e s) := by
  unfold wakePort
  split
  · exact wake_services _ _
  · exact .refl _

theorem appendEntry_services {e : Port} (c : Cls) (q : QEntry) (h : s.hasRoom e = true) :
    Services s (appendEntry e c q s) :=
  ((Service.append s e c q h).once).trans (wakePort_services _ _)

theorem resyncAfter_services (t : TrunkId) (q : QEntry) : Services s (resyncAfter t q s) := by
  unfold resyncAfter
  split
  · split
    · exact setResync_services _ _ _
    · exact .refl _
  · exact .refl _

theorem flushedEntry_services (t : TrunkId) (q : QEntry) : Services s (flushedEntry t q s) :=
  (countTrunk_services _ _ _).trans ((resyncAfter_services _ _ _).trans (dropRef_services _ _))

theorem raiseUndelivered_services (e : Port) (q : QEntry) (r : Undelivered) :
    Services s (raiseUndelivered e q r s) := by
  unfold raiseUndelivered
  split
  · exact raise_services _ _
  · exact .refl _

theorem giveUp_services (t : TrunkId) (c : Cls) (q : QEntry) (r : Undelivered) : Services s (giveUp t c q r s) := by
  unfold giveUp
  have h : Services s (countGivenUp t r (popHead (.trunk t) c s)) :=
    (popHead_services _ _ _).trans (countTrunk_services _ _ _)
  simp only
  split
  · exact (h.trans (resyncAfter_services _ _ _)).trans
      ((raiseUndelivered_services _ _ _ _).trans (dropRef_services _ _))
  · exact h.trans ((raiseUndelivered_services _ _ _ _).trans (dropRef_services _ _))

theorem setBalances_services (t : TrunkId) (b : Quad Int) : Services s (setBalances t b s) :=
  (Service.trunk _ _ _ ⟨rfl, rfl, rfl, rfl, Or.inl⟩).once

theorem chooseClass_services (t : TrunkId) : Services s (chooseClass t s).1 := by
  unfold chooseClass
  split
  · exact .refl _
  · split
    · exact .refl _
    · exact setBalances_services _ _ _

/-- One FIFO replaced, as every FIFO of every egress reads after it. -/
theorem fifo_setFifo (e e' : Port) (c c' : Cls) (q : List QEntry) :
    (setFifo e c q s).fifo e' c' = if e' = e ∧ c' = c then q else s.fifo e' c' := by
  cases e with
  | host =>
    cases e' with
    | host =>
      simp only [setFifo, State.fifo, State.setHostEgress_hostEgress, Quad.get_set, true_and]
    | trunk u => simp [setFifo, State.fifo]
  | trunk t =>
    cases e' with
    | host => simp [setFifo, State.fifo]
    | trunk u =>
      simp only [setFifo, State.fifo, State.modTrunk_trunk, Port.trunk.injEq]
      by_cases h : u = t
      · subst h
        simp [Quad.get_set]
      · simp [h]

theorem entries_setFifo_of_ne {e e' : Port} (h : e' ≠ e) (c : Cls) (q : List QEntry) :
    (setFifo e c q s).entries e' = s.entries e' := by
  simp [State.entries, fifo_setFifo, h]

theorem params_setFifo (e : Port) (c : Cls) (q : List QEntry) : (setFifo e c q s).params = s.params := by
  cases e <;> simp [setFifo]

theorem queueLimit_congr {s s' : State} (h : s'.params = s.params) (e : Port) : s'.queueLimit e = s.queueLimit e := by
  cases e <;> simp [State.queueLimit, State.tparams, h]

theorem entries_congr {s s' : State} {e : Port} (h : ∀ c, s'.fifo e c = s.fifo e c) : s'.entries e = s.entries e := by
  simp [State.entries, h]

theorem fifo_modTrunk {t : TrunkId} {f : Trunk → Trunk} (h : (f (s.trunk t)).egress.fifo = (s.trunk t).egress.fifo)
    (e : Port) (c : Cls) : (s.modTrunk t f).fifo e c = s.fifo e c := by
  cases e with
  | host => rfl
  | trunk u =>
    simp only [State.fifo, State.modTrunk_trunk]
    by_cases hu : u = t
    · subst hu
      simp [h]
    · simp [hu]

theorem hasRoom_congr {s s' : State} {e : Port} (hp : s'.params = s.params) (he : s'.entries e = s.entries e) :
    s'.hasRoom e = s.hasRoom e := by
  simp [State.hasRoom, he, queueLimit_congr hp]

theorem reroute_services {t u : TrunkId} (c : Cls) (q : QEntry) (hu : u ≠ t) (h : s.hasRoom (.trunk u) = true) :
    Services s (reroute t c q u s) := by
  unfold reroute
  refine (popHead_services s (.trunk t) c).trans ((countTrunk_services _ _ _).trans (appendEntry_services _ _ _ ?_))
  rw [← h]
  refine hasRoom_congr (by simp [countTrunk, popHead, params_setFifo]) ?_
  refine (entries_congr fun c' => fifo_modTrunk _ (by rfl) _ _).trans ?_
  exact entries_setFifo_of_ne _ (by simp [hu]) _ _

theorem headCheck_reroute {t u : TrunkId} {q : QEntry} (h : s.headCheck t q = .reroute u) :
    u ≠ t ∧ s.hasRoom (.trunk u) = true := by
  unfold State.headCheck at h
  split at h
  · cases h
  · split at h
    · cases h
    · split at h
      · split at h
        · cases h
        · split at h
          · cases h
          · next w _ =>
            split at h
            · next hw =>
              unfold State.rerouteCheck at h
              split at h
              · cases h
              · split at h
                · next hr =>
                  cases h
                  exact ⟨hw, hr⟩
                · cases h
            · split at h <;> cases h
      · cases h

theorem pickWithin_services (fuel : Nat) (t : TrunkId) : Services s (pickWithin fuel t s).1 := by
  induction fuel generalizing s with
  | zero => exact .refl _
  | succ n ih =>
    have hc := chooseClass_services s t
    unfold pickWithin
    split
    · next h => simpa [h] using hc
    · next x c h =>
      rw [h] at hc
      split
      · exact hc
      · split
        · exact hc
        · exact hc.trans ((giveUp_services _ _ _ _ _).trans (ih _))
        · next hr =>
          have := headCheck_reroute _ hr
          exact hc.trans ((reroute_services _ _ _ this.1 this.2).trans (ih _))

theorem pickTrunk_services (t : TrunkId) : Services s (pickTrunk t s).1 := pickWithin_services _ _ _

theorem giveUpHost_services (c : Cls) (q : QEntry) : Services s (giveUpHost c q s) :=
  (popHead_services _ _ _).trans ((raiseUndelivered_services _ _ _ _).trans (dropRef_services _ _))

theorem hostPickWithin_services (fuel : Nat) : Services s (hostPickWithin fuel s).1 := by
  induction fuel generalizing s with
  | zero => exact .refl _
  | succ n ih =>
    unfold hostPickWithin
    split
    · exact .refl _
    · split
      · exact .refl _
      · split
        · exact .refl _
        · split
          · exact (giveUpHost_services _ _ _).trans (ih _)
          · exact .refl _

theorem hostPick_services : Services s (hostPick s).1 := hostPickWithin_services _ _

theorem flushOne_services (e : Port) (q : QEntry) : Services s (flushOne e q s) := by
  unfold flushOne
  split
  · exact flushedEntry_services _ _ _
  · exact dropRef_services _ _

theorem flushClass_services (e : Port) (c : Cls) : Services s (flushClass e c s).1 := by
  unfold flushClass
  split
  · exact .refl _
  · next q rest h =>
    split
    · exact ((Service.fifo s e c _ (by simp [h])).once).trans
        (foldl_services _ (fun s x => flushOne_services s e x) _ _)
    · exact ((Service.fifo s e c _ (by simp [h])).once).trans
        (foldl_services _ (fun s x => flushOne_services s e x) _ _)

theorem flushClasses_services (e : Port) (cs : List Cls) : Services s (flushClasses e cs s).1 := by
  unfold flushClasses
  generalize 0 = n
  induction cs generalizing s n with
  | nil => exact .refl _
  | cons c cs ih => exact (flushClass_services s e c).trans (ih _ _)

theorem emptyClass_services (t : TrunkId) (c : Cls) : Services s (emptyClass t c s) :=
  ((Service.fifo s (.trunk t) c [] (by simp)).once).trans
    (foldl_services _ (fun s x => flushedEntry_services s t x) _ _)

theorem emptyEgress_services (t : TrunkId) : Services s (emptyEgress t s).1 :=
  ((emptyClass_services s t 3).trans (emptyClass_services _ t 2)).trans
    ((emptyClass_services _ t 1).trans (emptyClass_services _ t 0))

/-! ### The host link -/

theorem startResend_services : Services s (startResend s) := by
  unfold startResend
  split
  · exact (Service.link s _ ⟨le_rfl, le_max_left _ _, le_max_left _ _, rfl, rfl, rfl, List.suffix_rfl⟩).once
  · next u us h =>
    refine ((Service.link s _ ⟨le_rfl, le_max_left _ _, ?_, rfl, rfl, rfl, List.suffix_rfl⟩).once).trans
      (countLink_services _ _)
    simp [h]

theorem startNotice_services (hw : s.link.unacked.length < s.params.noticeWindow) : Services s (startNotice s) := by
  unfold startNotice
  split
  · exact .refl _
  · next n ns h =>
    refine ((Service.link s _ ⟨le_rfl, ?_, ?_, rfl, rfl, rfl, List.suffix_rfl⟩).once).trans (countLink_services _ _)
    · simp only [h, List.length_cons]
      omega
    · simp only [List.length_append, List.length_cons, List.length_nil]
      omega

theorem takeNotice_services (h : s.noticeDue = true) : Services s (takeNotice s) := by
  unfold takeNotice
  split
  · exact startResend_services _
  · next hr =>
    apply startNotice_services
    simp only [State.noticeDue, Bool.and_eq_true, Bool.or_eq_true, decide_eq_true_eq] at h
    rcases h.2 with h | h
    · exact absurd h hr
    · exact h.2

theorem startTelegram_services (p : Cls × QEntry) : Services s (startTelegram p s) := by
  unfold startTelegram
  split
  · exact .refl _
  · exact (Service.link s _
      ⟨Nat.sub_le _ _, le_max_left _ _, le_max_left _ _, rfl, rfl, rfl, List.suffix_rfl⟩).once

theorem takeTelegram_services : Services s (takeTelegram s) := by
  have h := hostPick_services s
  unfold takeTelegram
  split
  · next x p e =>
    rw [e] at h
    exact h.trans (startTelegram_services _ _)
  · next x e =>
    rw [e] at h
    split
    · next hd => exact h.trans (takeNotice_services _ hd)
    · exact h

theorem takeNext_services : Services s (takeNext s) := by
  unfold takeNext
  split
  · next r rs h =>
    exact (Service.link s _
      ⟨le_rfl, le_max_left _ _, le_max_left _ _, rfl, rfl, rfl, by rw [h]; exact List.suffix_cons _ _⟩).once
  · split
    · next hd => exact takeNotice_services _ hd
    · split
      · exact takeTelegram_services _
      · exact .refl _

theorem serveLink_services : Services s (serveLink s) := by
  unfold serveLink
  split
  · exact takeNext_services _
  all_goals exact .refl _

theorem endMessage_services : Services s (endMessage s) :=
  ((Service.link s _ ⟨le_rfl, le_max_left _ _, le_max_left _ _, rfl, rfl, rfl, List.suffix_rfl⟩).once).trans
    (countLink_services _ _)

theorem startNoticeTimer_services : Services s (startNoticeTimer s) :=
  (Service.link s _ ⟨le_rfl, le_max_left _ _, le_max_left _ _, rfl, rfl, rfl, List.suffix_rfl⟩).once

theorem countBadIn_services : Services s (countBadIn s) := countLink_services _ _

theorem countIn_services : Services s (countIn s) := countLink_services _ _

theorem resume_services : Services s (resume s) := by
  unfold resume
  split
  · refine (Service.link s _ ?_).once
    split
    · exact ⟨le_rfl, le_max_left _ _, le_max_left _ _, rfl, rfl, rfl, List.suffix_rfl⟩
    · next u us h =>
      refine ⟨le_rfl, le_max_left _ _, ?_, rfl, rfl, rfl, List.suffix_rfl⟩
      simp [h]
  · exact .refl _

/-! ### The controllers -/

theorem countWithheld_services (t : TrunkId) (n : Nat) : Services s (countWithheld t n s) := countTrunk_services _ _ _

/-- A transaction is recorded only where the receiver listens. -/
theorem beginTxn_services {t : TrunkId} (a : Activity) (k : TxnKind) (h : (s.trunk t).listening = true) :
    Services s (beginTxn t a k s) :=
  (Service.trunk _ _ _ ⟨rfl, rfl, rfl, rfl, fun _ => .inr h⟩).once

/-- A change of a trunk's record that touches none of what `TrunkService` guards. -/
theorem modTrunk_services {t : TrunkId} {f : Trunk → Trunk} (h : TrunkService (s.trunk t) (f (s.trunk t))) :
    Services s (s.modTrunk t f) := (Service.trunk _ _ _ h).once

theorem beginPoll_services {t : TrunkId} (p : Nat) (n : Num) (h : (s.trunk t).listening = true) :
    Services s (beginPoll t p n s) := by
  have h1 : Services s ((countWithheld t p s).modTrunk t fun r => { r with pointer := some n }) :=
    (countWithheld_services s t p).trans (modTrunk_services _ ⟨rfl, rfl, rfl, rfl, Or.inl⟩)
  exact h1.trans (beginTxn_services _ _ _ (by rw [h1.listening, h]))

theorem beginEntry_services {t : TrunkId} (p : Cls × QEntry) (h : (s.trunk t).listening = true) :
    Services s (beginEntry t p s) := by
  unfold beginEntry
  split
  · exact beginTxn_services _ _ _ h
  · exact beginTxn_services _ _ _ h

theorem endCycle_services (t : TrunkId) (p : Nat) : Services s (endCycle t p s) :=
  (countWithheld_services s t p).trans (modTrunk_services _ ⟨rfl, rfl, rfl, rfl, Or.inl⟩)

theorem goIdle_services (t : TrunkId) : Services s (goIdle t s) :=
  modTrunk_services _ ⟨rfl, rfl, rfl, rfl, Or.inl⟩

theorem decideLast_services {t : TrunkId} (h : (s.trunk t).listening = true) : Services s (decideLast t s).1 := by
  have hp := pickTrunk_services s t
  unfold decideLast
  split
  · next x p e =>
    rw [e] at hp
    exact hp.trans (beginEntry_services _ _ (by rw [hp.listening, h]))
  · next x e =>
    rw [e] at hp
    split
    · exact hp
    · exact hp.trans (goIdle_services _ _)

theorem decideFromStart_services {t : TrunkId} (h : (s.trunk t).listening = true) :
    Services s (decideFromStart t s).1 := by
  unfold decideFromStart
  split
  · exact beginTxn_services _ _ _ h
  · split
    · exact beginPoll_services _ _ _ h
    · exact decideLast_services _ h

theorem decideCycle_services {t : TrunkId} (h : (s.trunk t).listening = true) : Services s (decideCycle t s).1 := by
  unfold decideCycle
  split
  · exact beginTxn_services _ _ _ h
  · split
    · exact beginPoll_services _ _ _ h
    · have he := endCycle_services s t
      exact (he _).trans (decideFromStart_services _ (by rw [(he _).listening, h]))

theorem decideOnce_services {t : TrunkId} (h : (s.trunk t).listening = true) : Services s (decideOnce t s).1 := by
  have hp := pickTrunk_services s t
  unfold decideOnce
  split
  · split
    · next x p e =>
      rw [e] at hp
      refine (hp.trans (beginEntry_services x p (by rw [hp.listening, h]))).trans ?_
      exact modTrunk_services (beginEntry t p x) (t := t)
        (f := fun r => { r with burst := r.burst.map (· + 1) }) ⟨rfl, rfl, rfl, rfl, Or.inl⟩
    · next x e =>
      rw [e] at hp
      exact hp.trans (decideCycle_services _ (by rw [hp.listening, h]))
  · exact decideCycle_services _ h

theorem decideWithin_services (fuel : Nat) {t : TrunkId} (h : (s.trunk t).listening = true) :
    Services s (decideWithin fuel t s) := by
  induction fuel generalizing s with
  | zero => exact goIdle_services _ _
  | succ n ih =>
    have ho := decideOnce_services s h
    unfold decideWithin
    split
    · next x e =>
      rw [e] at ho
      exact ho.trans (ih _ (by rw [ho.listening, h]))
    · next x e =>
      rw [e] at ho
      exact ho

theorem workDecision_services (t : TrunkId) : Services s (workDecision t s) := by
  unfold workDecision
  split
  · next h =>
    simp only [State.mayDecide, Bool.and_eq_true] at h
    exact decideWithin_services _ _ h.1.1
  · exact .refl _

theorem endTxn_services (t : TrunkId) : Services s (endTxn t s) :=
  (modTrunk_services s ⟨rfl, rfl, rfl, rfl, fun h => by simp at h⟩).trans (workDecision_services _ _)

theorem runWakesWithin_services (fuel : Nat) : Services s (runWakesWithin fuel s) := by
  induction fuel generalizing s with
  | zero => exact (Service.wakes _ _).once
  | succ n ih =>
    unfold runWakesWithin
    split
    · exact .refl _
    · simp only
      split
      · exact ((Service.wakes _ _).once).trans ((workDecision_services _ _).trans (ih _))
      · exact ((Service.wakes _ _).once).trans (ih _)

theorem runWakes_services : Services s (runWakes s) := runWakesWithin_services _ _

/-- The end of an event is a chain of services. -/
theorem finish_services : Services s (finish s) :=
  ((runWakes_services s).trans (serveLink_services _)).trans ((runWakes_services _).trans (serveLink_services _))

theorem startTimer_services (t : TrunkId) (u : Nat) : Services s (startTimer t u s) :=
  modTrunk_services _ ⟨rfl, rfl, rfl, rfl, Or.inl⟩

theorem settle_services (t : TrunkId) : Services s (settle t s) :=
  (modTrunk_services s ⟨rfl, rfl, rfl, rfl, Or.inl⟩).trans (startTimer_services _ _ _)

theorem goQuiet_services (t : TrunkId) : Services s (goQuiet t s) :=
  (modTrunk_services s ⟨rfl, rfl, rfl, rfl, Or.inl⟩).trans (startTimer_services _ _ _)

theorem abandonEntry_services (t : TrunkId) : Services s (abandonEntry t s) := by
  unfold abandonEntry
  split
  · exact .refl _
  · split
    · exact .refl _
    · split
      · exact (popHead_services _ _ _).trans (flushedEntry_services _ _ _)
      · split
        · exact (popHead_services _ _ _).trans (dropRef_services _ _)
        · exact .refl _

theorem giveBackTxn_services (t : TrunkId) : Services s (giveBackTxn t s) := giveBack_services _ _

theorem abandon_services (t : TrunkId) (b : Bool) : Services s (abandon t b s) := by
  unfold abandon
  simp only
  have h := giveBackTxn_services s t
  split
  · exact h.trans (modTrunk_services _ ⟨rfl, rfl, rfl, rfl, fun h => by simp [Trunk.abandoned] at h⟩)
  · exact (h.trans (abandonEntry_services _ _)).trans
      (modTrunk_services _ ⟨rfl, rfl, rfl, rfl, fun h => by simp [Trunk.abandoned] at h⟩)

end Chains

end Sys2Proof.Machine
end

