-- ==== Sys2Proof/Laws/Moves.lean ====
section
/-!
SUPPORT. What a command can do, said once: a move is a service or one of the few acts that only a command makes, and every command is
a chain of moves. A predicate that every move keeps is kept by every step.
-/

namespace Sys2Proof.Machine

/-- What a command may do to the host link. -/
structure LinkMove (l l' : HostLink) : Prop where
  credit : l'.credit ≤ max l.credit Config.maxCredit
  pending : l'.pendingNotices.length ≤ l.pendingNotices.length
  unacked : l'.unacked.length ≤ l.unacked.length

/-- What a command may do to a trunk's record: it leaves no transaction on a trunk that does not listen, unless one was there
already, and lengthens no FIFO. -/
structure TrunkMove (k k' : Trunk) : Prop where
  fifo : ∀ c, (k'.egress.fifo.get c).length ≤ (k.egress.fifo.get c).length
  txn : k'.txn.isSome → k'.listening = true ∨ (k.listening = false ∧ k.txn.isSome)

/-- One act of a command. -/
inductive Move : State → State → Prop
  | service {s s' : State} (h : Service s s') : Move s s'
  | clock (s : State) (v : Nat) (h : s.clock ≤ v) : Move s (s.setClock v)
  | free (s : State) (v : Nat) (h : s.free ≤ v) : Move s (s.setFree v)
  | pins (s : State) (v : Quad Bool) : Move s (s.setFltPins v)
  | inReset (s : State) (v : Bool) : Move s (s.setInReset v)
  | params (s : State) (v : Nat) (r : ParamRef) (h : r.inRange v = true) (ho : s.setObstacle r v = none) :
      Move s (s.setParams (s.params.write v r))
  | aging (s : State) (v : MsTimer) : Move s (s.setAging v)
  | link (s : State) (f : HostLink → HostLink) (h : LinkMove s.link (f s.link)) : Move s (s.modLink f)
  | trunk (s : State) (t : TrunkId) (f : Trunk → Trunk) (h : TrunkMove (s.trunk t) (f (s.trunk t))) :
      Move s (s.modTrunk t f)
  | grant (s : State) (p : Port) (source : Num) (length : Nat) (h : s.reserveFailure p length = none) :
      Move s (s.setStore (s.store.grant s.lowestFree p source length))
  | put (s : State) (e : DirEntry) (hr : (s.entry e.num).isSome = true ∨ s.dirFull = false)
      (hp : e.placed = true → (∃ o, s.entry e.num = some o ∧ o.placed = true) ∨ s.placesFull = false) :
      Move s (s.setDir (putInto e s.dir))
  | clearDir (s : State) : Move s (s.setDir (s.dir.filterMap restartEntry))
  | clearStore (s : State) : Move s (restartStore s)
  | clearHost (s : State) : Move s (s.setHostEgress (Quad.all []))
  | reset (s : State) (straps : Straps) (flt : Quad Bool) : Move s (afterReset straps flt s)

/-- A chain of moves. -/
inductive Moves : State → State → Prop
  | refl (s : State) : Moves s s
  | tail {s t u : State} (h : Moves s t) (h1 : Move t u) : Moves s u

theorem Move.once {s s' : State} (h : Move s s') : Moves s s' := .tail (.refl s) h

theorem Moves.trans {s t u : State} (h : Moves s t) (h1 : Moves t u) : Moves s u := by
  induction h1 with
  | refl => exact h
  | tail _ h2 ih => exact .tail ih h2

theorem Services.moves {s s' : State} (h : Services s s') : Moves s s' := by
  induction h with
  | refl => exact .refl _
  | tail _ h1 ih => exact .tail ih (.service h1)

/-- A predicate that every move keeps is kept by a chain of moves. -/
theorem Moves.preserve {P : State → Prop} (hP : ∀ s s', Move s s' → P s → P s') {s s' : State} (h : Moves s s')
    (hs : P s) : P s' := by
  induction h with
  | refl => exact hs
  | tail _ h1 ih => exact hP _ _ h1 ih

section Chains

variable (s : State)

theorem reach_moves (d : Nat) : Moves s (reach d s) := (Move.clock _ _ (le_max_left _ _)).once

theorem reachMs_moves (d : Nat) : Moves s (reachMs d s) := reach_moves _ _

/-! ### Reservations and arrivals -/

theorem reserve_moves (p : Port) (n : Num) (l : Nat) : Moves s (reserve p n l s).1 := by
  unfold reserve
  split
  · exact (countFailure_services _ _).moves
  · next h => exact ((Move.grant s p n l h).once).trans (testLow_services _).moves

theorem copies_ports (set : Quad Bool) : ((s.copies set).map Prod.fst).Nodup ∧ Port.host ∉ (s.copies set).map Prod.fst := by
  unfold State.copies
  simp only [List.filterMap_cons, List.filterMap_nil]
  generalize (set.get 0 && s.carries 0) = b0
  generalize (set.get 1 && s.carries 1) = b1
  generalize (set.get 2 && s.carries 2) = b2
  generalize (set.get 3 && s.carries 3) = b3
  cases b0 <;> cases b1 <;> cases b2 <;> cases b3 <;> simp

theorem orNoRoute_ok {needs r : List Need} (h : orNoRoute needs = .ok r) : r = needs := by
  unfold orNoRoute at h
  split at h
  · cases h
  · cases h
    rfl

theorem copies_host_nodup (set : Quad Bool) (b : Bool) :
    ((s.copies set ++ if b then [(Port.host, none)] else []).map Prod.fst).Nodup := by
  have h := copies_ports s set
  cases b
  · simpa using h.1
  · rw [List.map_append]
    exact List.Nodup.append h.1 (by simp) (by simpa [List.disjoint_singleton] using h.2)

/-- A telegram's entries go to different egresses (06 R123). -/
theorem chooseEgresses_nodup {arrival : Port} {dest : Num} {needs : List Need}
    (h : s.chooseEgresses arrival dest = .ok needs) : (needs.map Prod.fst).Nodup := by
  have hu : ∀ {r}, s.routeUnknown = .ok r → (r.map Prod.fst).Nodup := by
    intro r hr
    unfold State.routeUnknown at hr
    split at hr
    · cases hr
      simp
    · split at hr
      · cases hr
      · rw [orNoRoute_ok hr]
        exact (copies_ports s _).1
  unfold State.chooseEgresses at h
  split at h
  · cases h
    simp
  · split at h
    · split at h
      · exact hu h
      · split at h
        · exact hu h
        · split at h
          · cases h
          · cases h
            simp
    · split at h
      · split at h
        · cases h
        · rw [orNoRoute_ok h]
          exact copies_host_nodup s _ _
      · rw [orNoRoute_ok h]
        have := copies_host_nodup s (Quad.all true) (s.params.broadcastToHost ≠ 0)
        simpa using this

/-- An accepted telegram has room in each of its egresses, which are all different (06 R125). -/
theorem route_ok {arrival : Port} {source dest : Num} {cls : Byte} {c : Cls} {needs : List Need}
    (h : s.route arrival source dest cls = .ok (c, needs)) :
    (needs.map Prod.fst).Nodup ∧ ∀ n ∈ needs, s.hasRoom n.1 = true := by
  unfold State.route at h
  split at h
  · split at h
    · cases h
    · split at h
      · cases h
      · split at h
        · cases h
        · split at h
          · cases h
          · next r hr =>
            split at h
            · next hall =>
              cases h
              exact ⟨chooseEgresses_nodup s hr, by simpa using hall⟩
            · cases h
  · cases h

theorem hasRoom_appendEntry {e e' : Port} (h : e' ≠ e) (c : Cls) (q : QEntry) :
    (appendEntry e c q s).hasRoom e' = s.hasRoom e' := by
  have hp : (appendEntry e c q s).params = s.params :=
    ((wakePort_services (setFifo e c (s.fifo e c ++ [q]) s) e).params).trans (params_setFifo _ _ _ _)
  refine hasRoom_congr hp ?_
  have : (appendEntry e c q s).entries e' = (setFifo e c (s.fifo e c ++ [q]) s).entries e' := by
    refine entries_congr fun c' => ?_
    unfold appendEntry wakePort wake
    cases e with
    | host => rfl
    | trunk t =>
      simp only
      split
      · cases e' <;> rfl
      · rfl
  rw [this]
  exact entries_setFifo_of_ne s h _ _

theorem appendAll_services (n : Nat) (c : Cls) (needs : List Need) (hn : (needs.map Prod.fst).Nodup)
    (hr : ∀ x ∈ needs, s.hasRoom x.1 = true) : Services s (appendAll n c needs s) := by
  unfold appendAll
  induction needs generalizing s with
  | nil => exact .refl _
  | cons x xs ih =>
    simp only [List.map_cons, List.nodup_cons, List.mem_map, not_exists, not_and] at hn
    have h1 := appendEntry_services s (e := x.1) c ⟨n, x.2, 0, false, false⟩ (hr x (by simp))
    refine h1.trans (ih _ hn.2 ?_)
    intro y hy
    rw [hasRoom_appendEntry s (fun he => hn.1 y hy he)]
    exact hr y (by simp [hy])

theorem chargeArrival_services (p : Port) (n : Num) (m : Bool) (b : Nat) : Services s (chargeArrival p n m b s) := by
  unfold chargeArrival
  split
  · exact chargeSource_services _ _ _ _ _
  · exact .refl _

theorem routeArrival_services (p : Port) (n : Num) (m : Bool) (k : Nat) (d : Num) (c : Byte) :
    Services s (routeArrival p n m k d c s).1 := by
  unfold routeArrival
  split
  · exact releaseFilling_services _ _
  · next c needs h =>
    have hr := route_ok s h
    exact (appendAll_services s k c needs hr.1 hr.2).trans
      ((storeTicket_services _ _ _).trans (chargeArrival_services _ _ _ _ _))

/-! ### The directory -/

theorem entry_of_station {n : Num} {st : Station} (h : s.station n = some st) :
    s.entry n = some ⟨n, .station st⟩ := by
  unfold State.station at h
  cases he : s.entry n with
  | none => simp [he] at h
  | some e =>
    obtain ⟨m, b⟩ := e
    have hm : m = n := by
      unfold State.entry at he
      simpa using List.find?_some he
    subst hm
    cases b with
    | group g => simp [he] at h
    | station x =>
      simp [he] at h
      rw [h]

theorem entry_of_group {n : Num} {m : Members} (h : s.group n = some m) : s.entry n = some ⟨n, .group m⟩ := by
  unfold State.group at h
  cases he : s.entry n with
  | none => simp [he] at h
  | some e =>
    obtain ⟨k, b⟩ := e
    have hk : k = n := by
      unfold State.entry at he
      simpa using List.find?_some he
    subst hk
    cases b with
    | station x => simp [he] at h
    | group g =>
      simp [he] at h
      rw [h]

/-- A new station written where the directory has room. -/
theorem putNew_moves {n : Num} {st : Station} (hr : s.dirFull = false)
    (hp : st.kind.isPinned = true → s.placesFull = false) : Moves s (putStation n st s) :=
  (Move.put s ⟨n, .station st⟩ (.inr hr) (fun h => .inr (hp (by rwa [placed_station] at h)))).once

/-- A station converted to PINNED where there is a place. -/
theorem convert_moves {n : Num} {st st' : Station} (h : s.station n = some st) (hp : s.placesFull = false) :
    Moves s (putStation n st' s) :=
  (Move.put s ⟨n, .station st'⟩ (.inl (by rw [entry_of_station s h]; rfl)) (fun _ => .inr hp)).once

theorem refreshJoin_services {t : TrunkId} {n : Num} {st : Station} (h : s.station n = some st) (k : StationKind)
    (p : Byte) (hk : k.isPinned = st.kind.isPinned) : Services s (refreshJoin t n st k p s) := by
  unfold refreshJoin
  have hp : Services s (putStation n (st.rejoined k p) s) :=
    putStation_services s h (by intro x; rw [← hk]; exact x)
  simp only
  split
  · exact (hp.trans (raise_services _ _)).trans (wake_services _ _)
  · exact hp.trans (wake_services _ _)

theorem judgeJoin_moves (t : TrunkId) (n : Num) (p : Byte) : Moves s (judgeJoin t n p s).1 := by
  unfold judgeJoin
  split
  · have hc := countTrunk_services s t (fun c => { c with joins := countUp c.joins })
    refine hc.moves.trans ?_
    generalize countTrunk t (fun c => { c with joins := countUp c.joins }) s = u
    simp only
    split
    · next h =>
      split
      · exact .refl _
      · split
        · dsimp only
          exact ((raise_services u _).trans (countDir_services _ _)).moves
        · next hf =>
          refine (putNew_moves u (n := n) (st := joinedStation t p) (by simpa using hf) ?_).trans
            ((raise_services _ _).trans ((countDir_services _ _).trans (wake_services _ _))).moves
          simp [joinedStation, StationKind.isPinned]
    · next st h =>
      split
      · next home cap pass hk =>
        split
        · exact (refreshJoin_services u h _ _ (by simp [hk, StationKind.isPinned])).moves
        · split
          · exact .refl _
          · dsimp only
            exact ((raise_services u _).trans (countDir_services _ _)).moves
      · next home seen due hk =>
        split
        · exact .refl _
        · split
          · exact (refreshJoin_services u h _ _ (by simp [hk, StationKind.isPinned])).moves
          · refine Services.moves ((putStation_services u h (st' := st.rejoined (.dynamic (some t) true none) p) ?_).trans
              ((raise_services _ _).trans ((countDir_services _ _).trans
                ((wakeHome_services _ _).trans (wake_services _ _)))))
            simp [Station.rejoined, StationKind.isPinned]
  · dsimp only
    exact (countTrunk_services _ _ _).moves

theorem rehomed_kind (st : Station) (h : TrunkId) (k : StationKind) (p : Byte) : (st.rehomed h k p).kind = k := by
  unfold Station.rehomed
  split <;> rfl

theorem pinEntry_moves (n : Num) (h : TrunkId) (c : Option Nat) (b : Bool) (p : Byte) :
    Moves s (pinEntry n h c b p s).1 := by
  unfold pinEntry
  split
  · next hn =>
    split
    · exact .refl _
    · next hf =>
      simp only [Bool.or_eq_true, not_or, Bool.not_eq_true] at hf
      exact (putNew_moves s hf.1 fun _ => hf.2).trans (wake_services _ _).moves
  · next st hn =>
    split
    · split
      · exact .refl _
      · next hf =>
        exact (convert_moves s hn (by simpa using hf)).trans ((wakeHome_services _ _).trans (wake_services _ _)).moves
    · next old _ _ hk =>
      refine Services.moves ((putStation_services s hn ?_).trans ((wake_services _ _).trans (wake_services _ _)))
      intro _
      rw [hk]
      rfl

theorem groupEntry_moves (n : Num) (m : Members) : Moves s (groupEntry n m s).1 := by
  unfold groupEntry
  simp only
  split
  · next g h =>
    have he := entry_of_group s h
    exact (Move.put s ⟨n, .group m⟩ (.inl (by rw [he]; rfl)) fun _ => .inl ⟨_, he, rfl⟩).once
  · split
    · exact .refl _
    · next hf =>
      simp only [Bool.or_eq_true, not_or, Bool.not_eq_true] at hf
      exact (Move.put s ⟨n, .group m⟩ (.inr hf.1) fun _ => .inr hf.2).once

theorem forgetEntry_services (n : Num) : Services s (forgetEntry n s).1 := by
  unfold forgetEntry
  split
  · exact .refl _
  · next e he =>
    split
    · exact dropEntry_services _ _
    · next st hb =>
      split
      · exact removeStation_services _ _ _ _
      · have h : s.station n = some st := by
          unfold State.station
          rw [he]
          simp [hb]
        exact (putStation_services s h (by simp [StationKind.isPinned])).trans (wakeHome_services _ _)

/-! ### The end of a RESTART -/

theorem modLink_moves {f : HostLink → HostLink} (h : LinkMove s.link (f s.link)) : Moves s (s.modLink f) :=
  (Move.link _ _ h).once

theorem LinkMove.plain {l l' : HostLink} (hc : l'.credit = l.credit) (hp : l'.pendingNotices = l.pendingNotices)
    (hu : l'.unacked = l.unacked) : LinkMove l l' :=
  ⟨hc ▸ le_max_left _ _, hp ▸ le_rfl, hu ▸ le_rfl⟩

theorem queueReply_moves (m : Message) : Moves s (queueReply m s) := modLink_moves _ (.plain rfl rfl rfl)

theorem setCache_moves (r : CacheRecord) : Moves s (setCache r s) := modLink_moves _ (.plain rfl rfl rfl)

theorem completeRestart_moves (p : RestartProgress) : Moves s (completeRestart p s) := by
  unfold completeRestart
  have h1 : Moves s (s.modLink fun l => { l with restart := none }) := modLink_moves _ (.plain rfl rfl rfl)
  refine h1.trans ?_
  generalize (s.modLink fun l => { l with restart := none }) = u
  simp only
  split
  · exact ((setCache_moves _ _).trans (queueReply_moves _ _)).trans
      ((raise_services _ _).trans (wakeAll_services _)).moves
  · exact ((raise_services _ _).trans (wakeAll_services _)).moves

theorem checkRestart_moves : Moves s (checkRestart s) := by
  unfold checkRestart
  split
  · split
    · exact completeRestart_moves _ _
    · exact .refl _
  · exact .refl _

theorem reportQuiet_moves (t : TrunkId) : Moves s (reportQuiet t s) := by
  unfold reportQuiet
  split
  · split
    · refine Moves.trans ?_ (checkRestart_moves _)
      exact modLink_moves _ (.plain rfl rfl rfl)
    · exact .refl _
  · exact .refl _

/-! ### Requests -/

theorem dropArrival_moves : Moves s (dropArrival s) := by
  have h : Moves s (s.modLink fun l => { l with rx := .hunting }) := modLink_moves _ (.plain rfl rfl rfl)
  unfold dropArrival
  split
  · exact h.trans (giveBack_services _ _).moves
  · exact h
  · exact h

theorem conclude_moves (q : Byte) (c : BitVec 16) (r : State × Answer) (h : Moves s r.1) :
    Moves s (conclude q c r) := by
  unfold conclude
  split
  · exact (h.trans (setCache_moves _ _)).trans (queueReply_moves _ _)
  · exact (h.trans (setCache_moves _ _)).trans (queueReply_moves _ _)
  · exact h.trans (setCache_moves _ _)

theorem replay_moves : Moves s (replay s) := by
  unfold replay
  have h := (countLink_services s (fun c => { c with replays := countUp c.replays })).moves
  simp only
  split
  · split
    · exact h.trans (queueReply_moves _ _)
    · exact h
  · exact h

theorem judgeRequest_moves (q : Byte) (c : BitVec 16) (drop : State → State) (run : State → State × Answer)
    (hd : Moves s (drop s)) (hr : Moves s (run s).1) : Moves s (judgeRequest q c drop run s) := by
  unfold judgeRequest
  split
  · exact hd.trans (countBadIn_services _).moves
  · split
    · exact hd.trans (replay_moves _)
    · split
      · exact (hd.trans (countLink_services _ _).moves).trans (queueReply_moves _ _)
      · exact (conclude_moves s q c (run s) hr).trans (checkRestart_moves _)

theorem request_moves (k q : Byte) (body : List Byte) (drop : State → State) (run : State → State × Answer)
    (hd : ∀ s, Moves s (drop s)) (hr : ∀ s, Moves s (run s).1) : Moves s (request k q body drop run s) := by
  unfold request
  split
  · exact ((countIn_services s).moves.trans (judgeRequest_moves _ _ _ _ _ (hd _) (hr _))).trans
      ((resume_services _).trans (finish_services _)).moves
  · exact (hd s).trans ((countBadIn_services _).trans (finish_services _)).moves

theorem plainRequest_moves (k q : Byte) (body : List Byte) (run : State → State × Answer)
    (hr : ∀ s, Moves s (run s).1) : Moves s (plainRequest k q body run s) :=
  request_moves s k q body id run Moves.refl hr

theorem runHello_moves (body : List Byte) : Moves s (runHello body s).1 := by
  unfold runHello
  split
  · split
    · exact .refl _
    · simp only
      split
      · exact modLink_moves _ ⟨Nat.zero_le _, Nat.zero_le _, Nat.zero_le _⟩
      · exact .refl _
  · exact .refl _

theorem setWake_services (p : ParamRef) : Services s (setWake p s) := by
  unfold setWake
  split
  · exact wake_services _ _
  · exact wake_services _ _
  · exact wakeAll_services _
  · exact .refl _

theorem runSet_moves (body : List Byte) : Moves s (runSet body s).1 := by
  unfold runSet
  split
  · split
    · exact .refl _
    · simp only
      split
      · next h =>
        split
        · exact .refl _
        · next ho => exact ((Move.params s _ _ h ho).once).trans (setWake_services _ _).moves
      · exact .refl _
  · exact .refl _

theorem runGet_moves (body : List Byte) : Moves s (runGet body s).1 := by
  unfold runGet
  split
  · split <;> exact .refl _
  · exact .refl _

theorem modTrunk_moves {t : TrunkId} {f : Trunk → Trunk} (h : TrunkMove (s.trunk t) (f (s.trunk t))) :
    Moves s (s.modTrunk t f) := (Move.trunk _ _ _ h).once

theorem closeTrunk_moves (t : TrunkId) : Moves s (closeTrunk t s).1 := by
  unfold closeTrunk
  have h := ((abandon_services s t true).trans (emptyEgress_services _ t)).trans (closingEffects_services _ t)
  refine h.moves.trans ?_
  simp only
  exact modTrunk_moves _ ⟨fun _ => le_rfl, fun h => by simp at h⟩

theorem quietIfSound_services (t : TrunkId) : Services s (quietIfSound t s) := by
  unfold quietIfSound
  split
  · exact goQuiet_services _ _
  · exact .refl _

theorem modeChange {k k' : Trunk} (hm' : k'.mode ≠ .closed) (hl : k'.line = k.line)
    (ht : k'.txn = k.txn) (he : k'.egress = k.egress) : TrunkMove k k' where
  fifo := by simp [he]
  txn := by
    intro h
    by_cases hs : k.line = .sound
    · exact .inl (by simp [Trunk.listening, hm', hl, hs])
    · exact .inr ⟨by simp [Trunk.listening, hs], ht ▸ h⟩

theorem carryToSurvey_moves (t : TrunkId) : Moves s (carryToSurvey t s).1 := by
  unfold carryToSurvey
  split
  · refine (emptyEgress_services s t).moves.trans ?_
    simp only
    exact modTrunk_moves _ (modeChange (by simp) rfl rfl rfl)
  · refine ((abandon_services s t true).trans (emptyEgress_services _ t)).moves.trans ?_
    simp only
    refine Moves.trans ?_ (quietIfSound_services _ _).moves
    exact modTrunk_moves _ (modeChange (by simp) rfl rfl rfl)

theorem surveyToCarry_moves (t : TrunkId) : Moves s (surveyToCarry t s).1 := by
  unfold surveyToCarry
  split
  · simp only
    exact modTrunk_moves _ (modeChange (by simp) rfl rfl rfl)
  · refine (abandon_services s t false).moves.trans ?_
    simp only
    refine Moves.trans ?_ (quietIfSound_services _ _).moves
    exact modTrunk_moves _ (modeChange (by simp) rfl rfl rfl)

theorem openTrunk_moves (t : TrunkId) (m : Mode) (hm : (s.trunk t).mode = .closed) : Moves s (openTrunk t m s).1 := by
  unfold openTrunk
  refine (modTrunk_moves s ⟨fun _ => le_rfl, ?_⟩).trans (workDecision_services _ _).moves
  exact fun h => .inr ⟨by simp [Trunk.listening, hm], h⟩

theorem changeMode_moves (t : TrunkId) (m : Mode) : Moves s (changeMode t m s).1 := by
  unfold changeMode
  split
  · exact .refl _
  · exact .refl _
  · exact .refl _
  · next h => exact openTrunk_moves _ _ _ h
  · next h => exact openTrunk_moves _ _ _ h
  · exact closeTrunk_moves _ _
  · exact closeTrunk_moves _ _
  · exact carryToSurvey_moves _ _
  · exact surveyToCarry_moves _ _

theorem runTrunk_moves (body : List Byte) : Moves s (runTrunk body s).1 := by
  unfold runTrunk
  split
  · split
    · exact changeMode_moves _ _ _
    · exact .refl _
  · exact .refl _

theorem editAnswer_moves (a b : Byte) (r : State × Except Failure EditResult) (h : Moves s r.1) :
    Moves s (editAnswer a b r).1 := by
  unfold editAnswer
  split <;> exact h

theorem runPin_moves (body : List Byte) : Moves s (runPin body s).1 := by
  unfold runPin
  split
  · split
    · split
      · exact editAnswer_moves _ _ _ _ (pinEntry_moves _ _ _ _ _ _)
      · exact .refl _
    · exact .refl _
  · exact .refl _

theorem runGroup_moves (body : List Byte) : Moves s (runGroup body s).1 := by
  unfold runGroup
  split
  · split
    · split
      · exact editAnswer_moves _ _ _ _ (groupEntry_moves _ _ _)
      · exact .refl _
    · exact .refl _
  · exact .refl _

theorem runForget_moves (body : List Byte) : Moves s (runForget body s).1 := by
  unfold runForget
  split
  · exact editAnswer_moves _ _ _ _ (forgetEntry_services _ _).moves
  · exact .refl _

theorem runLookup_moves (body : List Byte) : Moves s (runLookup body s).1 := by
  unfold runLookup
  split
  · split <;> exact .refl _
  · exact .refl _

theorem runWalk_moves (body : List Byte) : Moves s (runWalk body s).1 := by
  unfold runWalk
  split
  · split
    · split <;> exact .refl _
    · exact .refl _
  · exact .refl _

theorem reserveSend_moves (n : Nat) : Moves s (reserveSend n s) := by
  unfold reserveSend
  simp only
  exact (reserve_moves s .host 0 (n - 3)).trans (modLink_moves _ (.plain rfl rfl rfl))

theorem sendHeader_moves (n : BitVec 16) : Moves s (sendHeader n s) := by
  have h : Moves s (if within 2 258 n.toNat then
      if sendLength (n.toNat - 2) && s.link.restart.isNone then finish (reserveSend (n.toNat - 2) s)
      else s.modLink fun l => { l with rx := .collecting (n.toNat - 2) none }
    else s) := by
    split
    · split
      · exact (reserveSend_moves _ _).trans (finish_services _).moves
      · exact modLink_moves _ (.plain rfl rfl rfl)
    · exact .refl _
  unfold sendHeader
  split
  · exact .refl _
  · exact h
  · exact h

theorem fillArrival_services (body : List Byte) : Services s (fillArrival body s) := by
  unfold fillArrival
  split
  · split
    · split
      · exact fillTicket_services _ _ _ _ _
      · exact .refl _
    · exact .refl _
  all_goals exact .refl _

theorem lateArrival_moves (d : Num) (c : Byte) (data : List Byte) : Moves s (lateArrival d c data s).1 := by
  have h := (dropArrival_moves s).trans (reserve_moves (dropArrival s) .host 0 data.length)
  unfold lateArrival
  split
  · next u n e =>
    rw [e] at h
    exact h.trans (fillTicket_services _ _ _ _ _).moves
  · next u r e =>
    rw [e] at h
    exact h

theorem sendArrival_moves (d : Num) (c : Byte) (data : List Byte) : Moves s (sendArrival d c data s).1 := by
  unfold sendArrival
  split
  · split
    · simp only
      exact modLink_moves _ (.plain rfl rfl rfl)
    · exact lateArrival_moves _ _ _ _
  all_goals exact lateArrival_moves _ _ _ _

theorem sendTelegram_moves (d : Num) (c : Byte) (data : List Byte) : Moves s (sendTelegram d c data s).1 := by
  have h := sendArrival_moves s d c data
  unfold sendTelegram
  split
  · next u r e => simpa [e] using h
  · next u k e =>
    rw [e] at h
    have h2 := routeArrival_services u .host 0 false k d c
    split
    · next w r e2 =>
      rw [e2] at h2
      exact h.trans h2.moves
    · next w e2 =>
      rw [e2] at h2
      refine (h.trans h2.moves).trans ?_
      dsimp only
      exact (countLink_services _ _).moves

theorem runSend_moves (body : List Byte) : Moves s (runSend body s).1 := by
  unfold runSend
  split
  · split
    · exact sendTelegram_moves _ _ _ _
    · exact dropArrival_moves _
  · exact dropArrival_moves _

theorem sendMessage_moves (q : Byte) (body : List Byte) :
    Moves s (sendMessage q body s) :=
  (fillArrival_services _ _).moves.trans (request_moves _ _ _ _ _ _ dropArrival_moves fun s => runSend_moves s body)

theorem clearGroup_services (g : Group) : Services s (clearGroup g s) := by
  unfold clearGroup
  split
  · exact countTrunk_services _ _ _
  · exact countLink_services _ _
  · exact (Service.mark s _ (by rfl) (by rfl) (by rfl)).once
  · exact countDir_services _ _

theorem runStats_moves (body : List Byte) : Moves s (runStats body s).1 := by
  unfold runStats
  split
  · split
    · simp only
      split
      · exact (clearGroup_services _ _).moves
      · exact .refl _
    · exact .refl _
  · exact .refl _

theorem runFlush_moves (body : List Byte) : Moves s (runFlush body s).1 := by
  unfold runFlush
  split
  · split
    · exact (flushClasses_services _ _ _).moves
    · exact .refl _
  · exact .refl _

theorem restartTrunk_moves (t : TrunkId) : Moves s (restartTrunk t s) := by
  unfold restartTrunk
  simp only
  have h : Moves s (s.modTrunk t fun k =>
    { k.abandoned with
      pointer := none
      cycle := 0
      lastCall := none
      callMade := false
      egress := .empty
      counters := { k.counters with flushed := countUpBy k.counters.flushed (s.entries (.trunk t)) } }) :=
    modTrunk_moves s ⟨fun c => by simp [TrunkEgress.empty], fun h => by simp [Trunk.abandoned] at h⟩
  split
  · exact h.trans (goQuiet_services _ _).moves
  · exact h

theorem restartDirectory_moves : Moves s (restartDirectory s) :=
  ((Move.clearDir s).once).trans (Move.aging _ _).once

theorem restartLink_moves (f : RestartFigures) : Moves s (restartLink f s) :=
  modLink_moves _ ⟨Nat.zero_le _, Nat.zero_le _, Nat.zero_le _⟩

theorem clearAll_services : Services s (clearAll s) :=
  ((((clearGroup_services s .directory).trans (clearGroup_services _ .store)).trans (clearGroup_services _ .host)).trans
    ((clearGroup_services _ (.trunk 3)).trans (clearGroup_services _ (.trunk 2)))).trans
      ((clearGroup_services _ (.trunk 1)).trans (clearGroup_services _ (.trunk 0)))

theorem takeRestart_moves (b : Bool) : Moves s (takeRestart b s) := by
  unfold takeRestart
  simp only
  have h := ((((((Move.clearStore s).once.trans (Move.clearHost _).once).trans (restartTrunk_moves _ 0)).trans
    (restartTrunk_moves _ 1)).trans (restartTrunk_moves _ 2)).trans (restartTrunk_moves _ 3)).trans
      ((restartDirectory_moves _).trans (restartLink_moves _ s.restartFigures))
  split
  · exact h.trans (clearAll_services _).moves
  · exact h

theorem runRestart_moves (body : List Byte) : Moves s (runRestart body s).1 := by
  unfold runRestart
  split
  · split
    · exact .refl _
    · exact takeRestart_moves _ _
  · exact .refl _

/-! ### Other host events -/

theorem grant_moves (body : List Byte) (f : State → State) (h : ∀ s, Moves s (f s)) : Moves s (grant body f s) := by
  unfold grant
  split
  · exact ((countIn_services s).moves.trans (h _)).trans ((resume_services _).trans (finish_services _)).moves
  · exact ((countBadIn_services s).trans (finish_services _)).moves

theorem takeCredit_moves (body : List Byte) : Moves s (takeCredit body s) := by
  unfold takeCredit
  split
  · split
    · exact modLink_moves _ ⟨(min_le_left _ _).trans (le_max_right _ _), le_rfl, le_rfl⟩
    · exact (countBadIn_services _).moves
  · exact (countBadIn_services _).moves

theorem dropThrough_length {n : Byte} {l r : List Unacked} (h : dropThrough n l = some r) : r.length ≤ l.length := by
  induction l with
  | nil => cases h
  | cons u us ih =>
    unfold dropThrough at h
    split at h
    · cases h
      simp
    · exact (ih h).trans (by simp)

theorem acknowledge_moves {rest : List Unacked} (h : rest.length ≤ s.link.unacked.length) :
    Moves s (acknowledge rest s) := by
  have h1 : Moves s (s.modLink fun l => { l with unacked := rest, resendDue := .no, noticeTimer := none }) :=
    modLink_moves _ ⟨le_max_left _ _, le_rfl, h⟩
  unfold acknowledge
  simp only
  split
  · exact h1
  · exact h1.trans (startNoticeTimer_services _).moves

theorem takeNoted_moves (body : List Byte) : Moves s (takeNoted body s) := by
  unfold takeNoted
  split
  · split
    · next h => exact acknowledge_moves _ (dropThrough_length h)
    · exact (countLink_services _ _).moves
  · exact (countBadIn_services _).moves

theorem spoiled_moves : Moves s (spoiled s) :=
  (dropArrival_moves s).trans ((countBadIn_services _).trans (finish_services _)).moves

theorem replyEnd_services : Services s (replyEnd s) := by
  unfold replyEnd
  split
  · exact (endMessage_services _).trans (finish_services _)
  all_goals exact .refl _

theorem noticeEnd_services : Services s (noticeEnd s) := by
  unfold noticeEnd
  split
  · refine (endMessage_services _).trans (Services.trans ?_ (finish_services _))
    unfold timeNotice
    split
    · exact startNoticeTimer_services _
    · exact .refl _
  all_goals exact .refl _

theorem departHost_services (e : Option Cls) : Services s (departHost e s) := by
  unfold departHost
  split
  · exact .refl _
  · split
    · exact .refl _
    · exact (popHead_services _ _ _).trans (dropRef_services _ _)

theorem telegramEnd_services : Services s (telegramEnd s) := by
  unfold telegramEnd
  split
  · exact ((endMessage_services _).trans (countLink_services _ _)).trans
      ((departHost_services _ _).trans (finish_services _))
  all_goals exact .refl _

theorem noticeTimerExpiry_moves : Moves s (noticeTimerExpiry s) := by
  unfold noticeTimerExpiry
  split
  · exact .refl _
  · next m h =>
    refine ((reachMs_moves s m.due).trans (modLink_moves (f := fun l => { l with noticeTimer := none }) _
      (.plain rfl rfl rfl))).trans (Moves.trans ?_ (finish_services _).moves)
    unfold noticeSilence
    split
    · exact .refl _
    · refine modLink_moves _ ?_
      split <;> exact .plain rfl rfl rfl

theorem agingExpiry_moves : Moves s (agingExpiry s) :=
  ((reachMs_moves s s.aging.due).trans (Move.aging _ _).once).trans
    ((agingScan_services _).trans (finish_services _)).moves

/-! ### Frames sent -/

theorem setPhase_services (t : TrunkId) (p : FramePhase) : Services s (setPhase t p s) :=
  modTrunk_services _ ⟨rfl, rfl, rfl, rfl, fun h => .inl (by simpa using h)⟩

theorem startFrame_services (t : TrunkId) (f : Frame) : Services s (startFrame t f s) :=
  (setPhase_services s t _).trans (modTrunk_services _ ⟨rfl, rfl, rfl, rfl, Or.inl⟩)

theorem endFrame_services (t : TrunkId) : Services s (endFrame t s) :=
  (setPhase_services s t _).trans (modTrunk_services _ ⟨rfl, rfl, rfl, rfl, Or.inl⟩)

theorem pollStart_services (t : TrunkId) : Services s (pollStart t s) := by
  unfold pollStart
  split
  · split
    · exact (countTrunk_services _ _ _).trans (startFrame_services _ _ _)
    all_goals exact .refl _
  · exact .refl _

theorem callStart_services (t : TrunkId) : Services s (callStart t s) := by
  unfold callStart
  split
  · exact ((countTrunk_services s t _).trans (modTrunk_services _ ⟨rfl, rfl, rfl, rfl, Or.inl⟩)).trans
      (startFrame_services _ _ _)
  · exact .refl _

theorem deliverMarks_moves (d : Num) : Moves s (deliverMarks d s).1 := by
  unfold deliverMarks
  split
  · exact .refl _
  · exact (Move.free _ _ (Nat.le_succ _)).once

theorem markStarted_services (t : TrunkId) (c : Cls) : Services s (markStarted t c s) := by
  unfold markStarted
  split
  · exact .refl _
  · next h => exact setHead_services s h _

theorem deliverStart_moves (t : TrunkId) : Moves s (deliverStart t s) := by
  unfold deliverStart
  split
  · split
    · split
      · exact (deliverMarks_moves _ _).trans (((countTrunk_services _ _ _).trans (markStarted_services _ _ _)).trans
          (Services.trans (modTrunk_services _ ⟨rfl, rfl, rfl, rfl, fun h => .inl (by simpa using h)⟩)
            (startFrame_services _ _ _))).moves
      · exact .refl _
    all_goals exact .refl _
  · exact .refl _

theorem bcastStart_services (t : TrunkId) : Services s (bcastStart t s) := by
  unfold bcastStart
  split
  · split
    · split
      · exact (countTrunk_services _ _ _).trans (startFrame_services _ _ _)
      · exact .refl _
    all_goals exact .refl _
  · exact .refl _

theorem confirmStart_services (t : TrunkId) : Services s (confirmStart t s) := by
  unfold confirmStart
  split
  · split
    · next c _ =>
      refine Services.trans ?_ (startFrame_services _ _ _)
      unfold countRefusal
      split
      · exact .refl _
      · exact countTrunk_services _ _ _
    · exact .refl _
  · exact .refl _

theorem endThenTime_services (t : TrunkId) (u : Nat) : Services s (startTimer t u (endFrame t s)) :=
  (endFrame_services _ _).trans (startTimer_services _ _ _)

theorem pollEnd_services (t : TrunkId) : Services s (pollEnd t s) := by
  unfold pollEnd
  split
  · exact endThenTime_services _ _ _
  · exact .refl _

theorem callEnd_services (t : TrunkId) : Services s (callEnd t s) := by
  unfold callEnd
  split
  · exact endThenTime_services _ _ _
  · exact .refl _

theorem deliverEnd_services (t : TrunkId) : Services s (deliverEnd t s) := by
  unfold deliverEnd
  split
  · exact endThenTime_services _ _ _
  · exact .refl _

theorem bcastEnd_services (t : TrunkId) : Services s (bcastEnd t s) := by
  unfold bcastEnd
  split
  · exact endThenTime_services _ _ _
  · exact .refl _

theorem confirmEnd_services (t : TrunkId) : Services s (confirmEnd t s) := by
  unfold confirmEnd
  split
  · exact (endFrame_services _ _).trans ((endTxn_services _ _).trans (finish_services _))
  · exact .refl _

/-! ### Frames received -/

theorem setRx_services (t : TrunkId) (r : Reception) : Services s (setRx t r s) :=
  modTrunk_services _ ⟨rfl, rfl, rfl, rfl, Or.inl⟩

theorem frameStart_services (t : TrunkId) : Services s (frameStart t s) := by
  unfold frameStart
  simp only
  split
  · split
    · exact modTrunk_services _ ⟨rfl, rfl, rfl, rfl, Or.inl⟩
    · split <;> exact setRx_services _ _ _
  · exact .refl _

theorem setHeld_services (t : TrunkId) (h : Option Held) : Services s (setHeld t h s) :=
  modTrunk_services _ ⟨rfl, rfl, rfl, rfl, fun h => .inl (by simpa using h)⟩

theorem reserveData_moves (t : TrunkId) (n : Num) (l : Nat) : Moves s (reserveData t n l s) := by
  unfold reserveData
  simp only
  exact (reserve_moves _ _ _ _).trans (setHeld_services _ _ _).moves

theorem dataHeader_moves (t : TrunkId) (h : FrameHeader) : Moves s (dataHeader t h s) := by
  unfold dataHeader
  split
  · exact .refl _
  · split
    · exact (reserveData_moves _ _ _ _).trans (finish_services _).moves
    · exact .refl _

theorem frameEnds_moves (t : TrunkId) (j : State → State) (h : ∀ s, Moves s (j s)) : Moves s (frameEnds t j s) := by
  unfold frameEnds
  split
  · exact .refl _
  · exact ((countTrunk_services s t _).trans (setRx_services _ _ _)).moves
  · exact ((countTrunk_services s t _).trans (setRx_services _ _ _)).moves
  · exact ((setRx_services s t _).moves.trans (h _)).trans (finish_services _).moves

theorem attemptFailed_services (t : TrunkId) (c : Cls) (a : Nat) : Services s (attemptFailed t c a s) := by
  unfold attemptFailed
  split
  · exact .refl _
  · next h =>
    split
    · exact (popHead_services _ _ _).trans (flushedEntry_services _ _ _)
    · split
      · exact setHead_services s h _
      · exact giveUp_services _ _ _ _ _

theorem unanswered_services (t : TrunkId) : Services s (unanswered t s) := by
  unfold unanswered
  split
  · exact (missed_services _ _ _).trans ((attemptFailed_services _ _ _ _).trans (settle_services _ _))
  · split
    · exact (missed_services _ _ _).trans (settle_services _ _)
    · exact .refl _

theorem notGood_services (t : TrunkId) : Services s (notGood t s) := by
  have hb : Services s (badAnswer t s) :=
    ((countTrunk_services s t _).trans (giveBackTxn_services _ _)).trans
      ((setHeld_services _ _ _).trans (unanswered_services _ _))
  unfold notGood
  split
  · exact (countTrunk_services s t _).trans (settle_services _ _)
  · exact hb
  · exact hb
  all_goals exact .refl _

theorem enterConfirming_services (t : TrunkId) (c : Confirm) : Services s (enterConfirming t c s) :=
  modTrunk_services _ ⟨rfl, rfl, rfl, rfl, fun h => .inl (by simpa using h)⟩

theorem judgeNil_services (t : TrunkId) (h : StationHead) : Services s (judgeNil t h s) := by
  unfold judgeNil
  split
  · split
    · exact (giveBackTxn_services _ _).trans ((countTrunk_services _ _ _).trans
        ((heard_services _ _ _).trans (endTxn_services _ _)))
    · exact notGood_services _ _
  · exact notGood_services _ _

theorem departHead_services (t : TrunkId) (c : Cls) : Services s (departHead t c s) := by
  unfold departHead
  split
  · exact .refl _
  · exact (popHead_services _ _ _).trans (dropRef_services _ _)

theorem judgeAck_services (t : TrunkId) (h : StationHead) : Services s (judgeAck t h s) := by
  unfold judgeAck
  split
  · next d c a _ =>
    split
    · unfold goodAck
      have hc := countTrunk_services s t (fun r => { r with acks := countUp r.acks })
      simp only
      split
      · exact (hc.trans (acknowledged_services _ _ _)).trans
          ((departHead_services _ _ _).trans (endTxn_services _ _))
      · exact (hc.trans (heard_services _ _ _)).trans
          ((attemptFailed_services _ _ _ _).trans (endTxn_services _ _))
    · exact notGood_services _ _
  · exact notGood_services _ _

theorem judgeBusy_services (t : TrunkId) (h : StationHead) : Services s (judgeBusy t h s) := by
  unfold judgeBusy
  split
  · split
    · exact ((countTrunk_services s t _).trans (heard_services _ _ _)).trans
        ((attemptFailed_services _ _ _ _).trans (endTxn_services _ _))
    · exact notGood_services _ _
  · exact notGood_services _ _

theorem ensureHeld_moves (t : TrunkId) (n : Num) (l : Nat) : Moves s (ensureHeld t n l s) := by
  unfold ensureHeld
  split
  · exact reserveData_moves _ _ _ _
  · exact .refl _

theorem fillHeld_services (t : TrunkId) (d : Num) (c : Byte) (data : List Byte) : Services s (fillHeld t d c data s) := by
  unfold fillHeld
  split
  · exact fillTicket_services _ _ _ _ _
  all_goals exact .refl _

theorem newData_services (t : TrunkId) (n : Num) (m : Bool) (d : Num) (c : Byte) : Services s (newData t n m d c s).1 := by
  unfold newData
  split
  · exact routeArrival_services _ _ _ _ _ _ _
  all_goals exact .refl _

theorem goodData_moves (t : TrunkId) (n : Num) (m : Bool) (d : Num) (c : Byte) (data : List Byte) :
    Moves s (goodData t n m d c data s) := by
  unfold goodData
  have h := ((((countTrunk_services s t (fun c => { c with dataIn := countUp c.dataIn })).trans
    (heard_services _ t n)).moves).trans (ensureHeld_moves _ t n data.length)).trans (fillHeld_services _ t d c data).moves
  refine h.trans ?_
  generalize fillHeld t d c data _ = u
  simp only
  split
  · exact ((countTrunk_services _ _ _).trans
      ((giveBackTxn_services _ _).trans (enterConfirming_services _ _ _))).moves
  · exact ((newData_services _ _ _ _ _ _).trans (enterConfirming_services _ _ _)).moves

theorem judgeData_moves (t : TrunkId) (h : StationHead) (d : Num) (c : Byte) (data : List Byte) :
    Moves s (judgeData t h d c data s) := by
  unfold judgeData
  split
  · split
    · exact goodData_moves _ _ _ _ _ _ _
    · exact (notGood_services _ _).moves
  · exact (notGood_services _ _).moves

theorem judgeJoinFrame_moves (t : TrunkId) (h : StationHead) (p : Byte) : Moves s (judgeJoinFrame t h p s) := by
  have hj := judgeJoin_moves s t h.station p
  unfold judgeJoinFrame
  split
  · unfold goodJoin
    split
    · next u e =>
      rw [e] at hj
      exact hj.trans (enterConfirming_services _ _ _).moves
    · next u r e =>
      rw [e] at hj
      exact hj.trans (enterConfirming_services _ _ _).moves
    · next u e =>
      rw [e] at hj
      exact hj.trans (settle_services _ _).moves
  · exact (notGood_services _ _).moves

theorem fragmentEnd_services (t : TrunkId) : Services s (fragmentEnd t s) := by
  unfold fragmentEnd
  split
  · exact countTrunk_services _ _ _
  · exact .refl _

/-! ### Timers -/

theorem timeIsUp_moves (t : TrunkId) (d : Nat) : Moves s (timeIsUp t d s) :=
  (reach_moves _ _).trans (modTrunk_services _ ⟨rfl, rfl, rfl, rfl, Or.inl⟩).moves

theorem answerTimeout_moves (t : TrunkId) : Moves s (answerTimeout t s) := by
  unfold answerTimeout
  split
  · split
    · exact (timeIsUp_moves _ _ _).trans
        ((countTrunk_services _ _ _).trans ((unanswered_services _ _).trans (finish_services _))).moves
    · exact .refl _
  · exact .refl _

theorem callWindowExpiry_moves (t : TrunkId) : Moves s (callWindowExpiry t s) := by
  unfold callWindowExpiry
  split
  · split
    · exact (timeIsUp_moves _ _ _).trans ((endTxn_services _ _).trans (finish_services _)).moves
    · exact .refl _
  · exact .refl _

theorem settleGapEnd_moves (t : TrunkId) : Moves s (settleGapEnd t s) := by
  unfold settleGapEnd
  split
  · split
    · exact (timeIsUp_moves _ _ _).trans ((endTxn_services _ _).trans (finish_services _)).moves
    · exact .refl _
  · exact .refl _

theorem departBcast_services (t : TrunkId) : Services s (departBcast t s) := by
  unfold departBcast
  split
  · split
    · exact .refl _
    · split
      · exact (popHead_services _ _ _).trans (flushedEntry_services _ _ _)
      · exact (popHead_services _ _ _).trans (dropRef_services _ _)
  all_goals exact .refl _

theorem spreadGapEnd_moves (t : TrunkId) : Moves s (spreadGapEnd t s) := by
  unfold spreadGapEnd
  split
  · split
    · exact (timeIsUp_moves _ _ _).trans
        ((departBcast_services _ _).trans ((endTxn_services _ _).trans (finish_services _))).moves
    · exact .refl _
  · exact .refl _

theorem quietPeriodEnd_moves (t : TrunkId) : Moves s (quietPeriodEnd t s) := by
  unfold quietPeriodEnd
  split
  · split
    · next d _ _ =>
      have h := (timeIsUp_moves s t d).trans
        (modTrunk_services (t := t) (f := fun k => { k with activity := .idle }) _ ⟨rfl, rfl, rfl, rfl, Or.inl⟩).moves
      refine h.trans (Moves.trans ?_ (finish_services _).moves)
      unfold afterQuiet
      split
      · exact reportQuiet_moves _ _
      · exact (workDecision_services _ _).moves
    · exact .refl _
  · exact .refl _

theorem callDue_moves (t : TrunkId) : Moves s (callDue t s) := by
  unfold callDue
  split
  · refine Moves.trans ?_ ((wake_services _ _).trans (finish_services _)).moves
    unfold reachCall
    split
    · exact reachMs_moves _ _
    · exact .refl _
  · exact .refl _

/-! ### Pins -/

theorem raiseStartFault_services (flt : Quad Bool) (t : TrunkId) : Services s (raiseStartFault flt t s) := by
  unfold raiseStartFault
  split
  · exact raise_services _ _
  · exact .refl _

theorem startUp_moves (r : StartReason) (st : Straps) (flt : Quad Bool) : Moves s (startUp r st flt s) :=
  ((Move.reset s st flt).once).trans ((((raise_services _ _).trans (raiseStartFault_services _ flt 0)).trans
    ((raiseStartFault_services _ flt 1).trans (raiseStartFault_services _ flt 2))).trans
      ((raiseStartFault_services _ flt 3).trans (finish_services _))).moves

theorem silence_services (t : TrunkId) : Services s (silence t s) :=
  modTrunk_services _ ⟨rfl, rfl, rfl, rfl, Or.inl⟩

theorem abandon_txn (t : TrunkId) (b : Bool) : ((abandon t b s).trunk t).txn = none := by
  simp [abandon, Trunk.abandoned]

theorem faultLine_moves (t : TrunkId) : Moves s (faultLine t s) := by
  unfold faultLine
  refine ((abandon_services s t false).moves.trans (modTrunk_moves _ ⟨fun _ => le_rfl, ?_⟩)).trans
    (((raise_services _ _).moves.trans (reportQuiet_moves _ _)).trans (finish_services _).moves)
  intro h
  simp [abandon_txn] at h

theorem soundLine_moves (t : TrunkId) (h : (s.trunk t).line = .faulted) : Moves s (soundLine t s) := by
  unfold soundLine
  have h1 : Moves s (s.modTrunk t fun k => { k with line := .sound }) :=
    modTrunk_moves _ ⟨fun _ => le_rfl, fun x => .inr ⟨by simp [Trunk.listening, h], x⟩⟩
  have h2 := h1.trans (raise_services _ (.line t .sound)).moves
  simp only
  split
  · exact h2.trans (finish_services _).moves
  · exact h2.trans ((goQuiet_services _ _).trans (finish_services _)).moves

end Chains

/-! ### Commands and steps -/

theorem whileRunning_moves {s s' : State} {f : State → State} (hf : Moves s (f s)) (h : whileRunning s f = .next s') :
    Moves s s' := by
  unfold whileRunning at h
  split at h
  · cases h
    exact .refl _
  · cases h
    exact hf

/-- Every command is a chain of moves. -/
theorem exec_moves {c : Instr} {s s' : State} (h : exec c s = .next s') : Moves s s' := by
  cases c with
  | powerOn st flt =>
    cases h
    exact startUp_moves _ _ _ _
  | resetLine st flt =>
    cases h
    exact startUp_moves _ _ _ _
  | lineFault t =>
    refine ((Move.pins s (s.fltPins.set t true)).once).trans (whileRunning_moves ?_ h)
    split
    · exact faultLine_moves _ _
    · exact .refl _
  | lineSound t =>
    refine ((Move.pins s (s.fltPins.set t false)).once).trans (whileRunning_moves ?_ h)
    split
    · next hl => exact soundLine_moves _ _ hl
    · exact .refl _
  | hello q b => exact whileRunning_moves (plainRequest_moves _ _ _ _ _ fun s => runHello_moves s b) h
  | set q b => exact whileRunning_moves (plainRequest_moves _ _ _ _ _ fun s => runSet_moves s b) h
  | get q b => exact whileRunning_moves (plainRequest_moves _ _ _ _ _ fun s => runGet_moves s b) h
  | trunk q b => exact whileRunning_moves (plainRequest_moves _ _ _ _ _ fun s => runTrunk_moves s b) h
  | pin q b => exact whileRunning_moves (plainRequest_moves _ _ _ _ _ fun s => runPin_moves s b) h
  | group q b => exact whileRunning_moves (plainRequest_moves _ _ _ _ _ fun s => runGroup_moves s b) h
  | forget q b => exact whileRunning_moves (plainRequest_moves _ _ _ _ _ fun s => runForget_moves s b) h
  | lookup q b => exact whileRunning_moves (plainRequest_moves _ _ _ _ _ fun s => runLookup_moves s b) h
  | walk q b => exact whileRunning_moves (plainRequest_moves _ _ _ _ _ fun s => runWalk_moves s b) h
  | sendHeader n => exact whileRunning_moves (sendHeader_moves _ _) h
  | send q b => exact whileRunning_moves (sendMessage_moves _ _ _) h
  | stats q b => exact whileRunning_moves (plainRequest_moves _ _ _ _ _ fun s => runStats_moves s b) h
  | flush q b => exact whileRunning_moves (plainRequest_moves _ _ _ _ _ fun s => runFlush_moves s b) h
  | restart q b => exact whileRunning_moves (plainRequest_moves _ _ _ _ _ fun s => runRestart_moves s b) h
  | unknownKindRequest k q b => exact whileRunning_moves (plainRequest_moves _ _ _ _ _ fun s => .refl s) h
  | credit q b => exact whileRunning_moves (grant_moves _ _ _ fun s => takeCredit_moves s b) h
  | noted q b => exact whileRunning_moves (grant_moves _ _ _ fun s => takeNoted_moves s b) h
  | hostBadMessage => exact whileRunning_moves (spoiled_moves _) h
  | hostMessageAbandon => exact whileRunning_moves (spoiled_moves _) h
  | replyEnd => exact whileRunning_moves (replyEnd_services _).moves h
  | noticeMessageEnd => exact whileRunning_moves (noticeEnd_services _).moves h
  | telegramEnd => exact whileRunning_moves (telegramEnd_services _).moves h
  | noticeTimerExpiry => exact whileRunning_moves (noticeTimerExpiry_moves _) h
  | agingExpiry => exact whileRunning_moves (agingExpiry_moves _) h
  | callDue t => exact whileRunning_moves (callDue_moves _ _) h
  | pollStart t => exact whileRunning_moves (pollStart_services _ _).moves h
  | callStart t => exact whileRunning_moves (callStart_services _ _).moves h
  | deliverStart t => exact whileRunning_moves (deliverStart_moves _ _) h
  | bcastStart t => exact whileRunning_moves (bcastStart_services _ _).moves h
  | confirmStart t => exact whileRunning_moves (confirmStart_services _ _).moves h
  | pollEnd t => exact whileRunning_moves (pollEnd_services _ _).moves h
  | callEnd t => exact whileRunning_moves (callEnd_services _ _).moves h
  | deliverEnd t => exact whileRunning_moves (deliverEnd_services _ _).moves h
  | bcastEnd t => exact whileRunning_moves (bcastEnd_services _ _).moves h
  | confirmEnd t => exact whileRunning_moves (confirmEnd_services _ _).moves h
  | frameStart t => exact whileRunning_moves (frameStart_services _ _).moves h
  | dataHeader t hd => exact whileRunning_moves (dataHeader_moves _ _ _) h
  | dataFrame t hd d c data => exact whileRunning_moves (frameEnds_moves _ _ _ fun s => judgeData_moves s t hd d c data) h
  | nilFrame t hd => exact whileRunning_moves (frameEnds_moves _ _ _ fun s => (judgeNil_services s t hd).moves) h
  | ackFrame t hd => exact whileRunning_moves (frameEnds_moves _ _ _ fun s => (judgeAck_services s t hd).moves) h
  | busyFrame t hd => exact whileRunning_moves (frameEnds_moves _ _ _ fun s => (judgeBusy_services s t hd).moves) h
  | joinFrame t hd p => exact whileRunning_moves (frameEnds_moves _ _ _ fun s => judgeJoinFrame_moves s t hd p) h
  | failedFrame t => exact whileRunning_moves (frameEnds_moves _ _ _ fun s => (notGood_services s t).moves) h
  | truncatedFrame t => exact whileRunning_moves (frameEnds_moves _ _ _ fun s => (notGood_services s t).moves) h
  | fragmentEnd t => exact whileRunning_moves (fragmentEnd_services _ _).moves h
  | answerTimeout t => exact whileRunning_moves (answerTimeout_moves _ _) h
  | callWindowExpiry t => exact whileRunning_moves (callWindowExpiry_moves _ _) h
  | settleGapEnd t => exact whileRunning_moves (settleGapEnd_moves _ _) h
  | spreadGapEnd t => exact whileRunning_moves (spreadGapEnd_moves _ _) h
  | quietPeriodEnd t => exact whileRunning_moves (quietPeriodEnd_moves _ _) h
  | resetAsserted =>
    cases h
    exact ((((silence_services s 0).trans (silence_services _ 1)).trans
      ((silence_services _ 2).trans (silence_services _ 3))).moves.trans
        (modLink_moves _ (.plain rfl rfl rfl))).trans (Move.inReset _ _).once

/-- A step takes the front command off the queue, or none, and makes a chain of moves. -/
theorem step_moves {s s' : State} (h : step s = .next s') : ∃ q, Moves (s.setPending q) s' := by
  unfold step at h
  split at h
  · next hq =>
    cases h
    refine ⟨[], ?_⟩
    have : s.setPending [] = s := by rw [← hq]; rfl
    rw [this]
    unfold tick
    split
    · exact .refl _
    · exact (Move.clock _ _ (Nat.le_succ _)).once
  · next c rest _ => exact ⟨rest, exec_moves h⟩

/-- A predicate that does not read the queue and that every move keeps is kept by every step. -/
theorem step_preserve {P : State → Prop} (hq : ∀ s q, P s → P (s.setPending q)) (hP : ∀ s s', Move s s' → P s → P s')
    {s s' : State} (hs : P s) (h : step s = .next s') : P s' := by
  obtain ⟨q, hm⟩ := step_moves h
  exact hm.preserve hP (hq s q hs)

end Sys2Proof.Machine
end

