-- ==== Sys2Proof/Laws/Frames.lean ====
section
/-!
SUPPORT. What the shared operations leave alone: a notice raised changes the host link only, a wake event the wakes only, the
directory's and the store's operations no trunk's record and no FIFO.
-/

namespace Sys2Proof.Machine

variable (s : State)

/-- Raising a notice changes the host link only. -/
theorem raise_eq (f : NoticeFields) : raise f s = s.setLink (raise f s).link := by
  unfold raise
  split
  · split <;> rfl
  · rfl

/-- A wake event changes the wakes only. -/
theorem wake_eq (t : TrunkId) : wake t s = s.setWakes (wake t s).wakes := by
  unfold wake
  split <;> rfl

/-- A wake event at a home trunk changes the wakes only. -/
theorem wakeHome_eq (h : Option TrunkId) : wakeHome h s = s.setWakes (wakeHome h s).wakes := by
  cases h
  · rfl
  · exact wake_eq _ _

/-- Wake events at every controller change the wakes only. -/
theorem wakeAll_eq : wakeAll s = s.setWakes (wakeAll s).wakes := by
  unfold wakeAll
  rw [wake_eq _ 3, wake_eq _ 2, wake_eq _ 1, wake_eq _ 0]
  rfl

@[simp] theorem raise_pending (f : NoticeFields) : (raise f s).pending = s.pending := by rw [raise_eq]; rfl
@[simp] theorem raise_clock (f : NoticeFields) : (raise f s).clock = s.clock := by rw [raise_eq]; rfl
@[simp] theorem raise_inReset (f : NoticeFields) : (raise f s).inReset = s.inReset := by rw [raise_eq]; rfl
@[simp] theorem raise_straps (f : NoticeFields) : (raise f s).straps = s.straps := by rw [raise_eq]; rfl
@[simp] theorem raise_fltPins (f : NoticeFields) : (raise f s).fltPins = s.fltPins := by rw [raise_eq]; rfl
@[simp] theorem raise_params (f : NoticeFields) : (raise f s).params = s.params := by rw [raise_eq]; rfl
@[simp] theorem raise_dir (f : NoticeFields) : (raise f s).dir = s.dir := by rw [raise_eq]; rfl
@[simp] theorem raise_dirCounters (f : NoticeFields) : (raise f s).dirCounters = s.dirCounters := by rw [raise_eq]; rfl
@[simp] theorem raise_aging (f : NoticeFields) : (raise f s).aging = s.aging := by rw [raise_eq]; rfl
@[simp] theorem raise_store (f : NoticeFields) : (raise f s).store = s.store := by rw [raise_eq]; rfl
@[simp] theorem raise_trunks (f : NoticeFields) : (raise f s).trunks = s.trunks := by rw [raise_eq]; rfl
@[simp] theorem raise_hostEgress (f : NoticeFields) : (raise f s).hostEgress = s.hostEgress := by rw [raise_eq]; rfl
@[simp] theorem raise_free (f : NoticeFields) : (raise f s).free = s.free := by rw [raise_eq]; rfl
@[simp] theorem raise_wakes (f : NoticeFields) : (raise f s).wakes = s.wakes := by rw [raise_eq]; rfl
@[simp] theorem raise_trunk (f : NoticeFields) (u : TrunkId) : (raise f s).trunk u = s.trunk u := by rw [raise_eq]; rfl

@[simp] theorem wake_pending (t : TrunkId) : (wake t s).pending = s.pending := by rw [wake_eq]; rfl
@[simp] theorem wake_clock (t : TrunkId) : (wake t s).clock = s.clock := by rw [wake_eq]; rfl
@[simp] theorem wake_inReset (t : TrunkId) : (wake t s).inReset = s.inReset := by rw [wake_eq]; rfl
@[simp] theorem wake_straps (t : TrunkId) : (wake t s).straps = s.straps := by rw [wake_eq]; rfl
@[simp] theorem wake_fltPins (t : TrunkId) : (wake t s).fltPins = s.fltPins := by rw [wake_eq]; rfl
@[simp] theorem wake_params (t : TrunkId) : (wake t s).params = s.params := by rw [wake_eq]; rfl
@[simp] theorem wake_dir (t : TrunkId) : (wake t s).dir = s.dir := by rw [wake_eq]; rfl
@[simp] theorem wake_dirCounters (t : TrunkId) : (wake t s).dirCounters = s.dirCounters := by rw [wake_eq]; rfl
@[simp] theorem wake_aging (t : TrunkId) : (wake t s).aging = s.aging := by rw [wake_eq]; rfl
@[simp] theorem wake_store (t : TrunkId) : (wake t s).store = s.store := by rw [wake_eq]; rfl
@[simp] theorem wake_trunks (t : TrunkId) : (wake t s).trunks = s.trunks := by rw [wake_eq]; rfl
@[simp] theorem wake_hostEgress (t : TrunkId) : (wake t s).hostEgress = s.hostEgress := by rw [wake_eq]; rfl
@[simp] theorem wake_link (t : TrunkId) : (wake t s).link = s.link := by rw [wake_eq]; rfl
@[simp] theorem wake_free (t : TrunkId) : (wake t s).free = s.free := by rw [wake_eq]; rfl
@[simp] theorem wake_trunk (t : TrunkId) (u : TrunkId) : (wake t s).trunk u = s.trunk u := by rw [wake_eq]; rfl

@[simp] theorem wakeHome_pending (h : Option TrunkId) : (wakeHome h s).pending = s.pending := by rw [wakeHome_eq]; rfl
@[simp] theorem wakeHome_clock (h : Option TrunkId) : (wakeHome h s).clock = s.clock := by rw [wakeHome_eq]; rfl
@[simp] theorem wakeHome_inReset (h : Option TrunkId) : (wakeHome h s).inReset = s.inReset := by rw [wakeHome_eq]; rfl
@[simp] theorem wakeHome_straps (h : Option TrunkId) : (wakeHome h s).straps = s.straps := by rw [wakeHome_eq]; rfl
@[simp] theorem wakeHome_fltPins (h : Option TrunkId) : (wakeHome h s).fltPins = s.fltPins := by rw [wakeHome_eq]; rfl
@[simp] theorem wakeHome_params (h : Option TrunkId) : (wakeHome h s).params = s.params := by rw [wakeHome_eq]; rfl
@[simp] theorem wakeHome_dir (h : Option TrunkId) : (wakeHome h s).dir = s.dir := by rw [wakeHome_eq]; rfl
@[simp] theorem wakeHome_dirCounters (h : Option TrunkId) : (wakeHome h s).dirCounters = s.dirCounters := by rw [wakeHome_eq]; rfl
@[simp] theorem wakeHome_aging (h : Option TrunkId) : (wakeHome h s).aging = s.aging := by rw [wakeHome_eq]; rfl
@[simp] theorem wakeHome_store (h : Option TrunkId) : (wakeHome h s).store = s.store := by rw [wakeHome_eq]; rfl
@[simp] theorem wakeHome_trunks (h : Option TrunkId) : (wakeHome h s).trunks = s.trunks := by rw [wakeHome_eq]; rfl
@[simp] theorem wakeHome_hostEgress (h : Option TrunkId) : (wakeHome h s).hostEgress = s.hostEgress := by rw [wakeHome_eq]; rfl
@[simp] theorem wakeHome_link (h : Option TrunkId) : (wakeHome h s).link = s.link := by rw [wakeHome_eq]; rfl
@[simp] theorem wakeHome_free (h : Option TrunkId) : (wakeHome h s).free = s.free := by rw [wakeHome_eq]; rfl
@[simp] theorem wakeHome_trunk (h : Option TrunkId) (u : TrunkId) : (wakeHome h s).trunk u = s.trunk u := by rw [wakeHome_eq]; rfl

@[simp] theorem wakeAll_pending : (wakeAll s).pending = s.pending := by rw [wakeAll_eq]; rfl
@[simp] theorem wakeAll_clock : (wakeAll s).clock = s.clock := by rw [wakeAll_eq]; rfl
@[simp] theorem wakeAll_inReset : (wakeAll s).inReset = s.inReset := by rw [wakeAll_eq]; rfl
@[simp] theorem wakeAll_straps : (wakeAll s).straps = s.straps := by rw [wakeAll_eq]; rfl
@[simp] theorem wakeAll_fltPins : (wakeAll s).fltPins = s.fltPins := by rw [wakeAll_eq]; rfl
@[simp] theorem wakeAll_params : (wakeAll s).params = s.params := by rw [wakeAll_eq]; rfl
@[simp] theorem wakeAll_dir : (wakeAll s).dir = s.dir := by rw [wakeAll_eq]; rfl
@[simp] theorem wakeAll_dirCounters : (wakeAll s).dirCounters = s.dirCounters := by rw [wakeAll_eq]; rfl
@[simp] theorem wakeAll_aging : (wakeAll s).aging = s.aging := by rw [wakeAll_eq]; rfl
@[simp] theorem wakeAll_store : (wakeAll s).store = s.store := by rw [wakeAll_eq]; rfl
@[simp] theorem wakeAll_trunks : (wakeAll s).trunks = s.trunks := by rw [wakeAll_eq]; rfl
@[simp] theorem wakeAll_hostEgress : (wakeAll s).hostEgress = s.hostEgress := by rw [wakeAll_eq]; rfl
@[simp] theorem wakeAll_link : (wakeAll s).link = s.link := by rw [wakeAll_eq]; rfl
@[simp] theorem wakeAll_free : (wakeAll s).free = s.free := by rw [wakeAll_eq]; rfl
@[simp] theorem wakeAll_trunk (u : TrunkId) : (wakeAll s).trunk u = s.trunk u := by rw [wakeAll_eq]; rfl

/-! ### The directory and the store leave every trunk's record and every FIFO -/

@[simp] theorem putStation_trunks (n : Num) (st : Station) : (putStation n st s).trunks = s.trunks := by
  rfl

@[simp] theorem putStation_hostEgress (n : Num) (st : Station) : (putStation n st s).hostEgress = s.hostEgress := by
  rfl

@[simp] theorem dropEntry_trunks (n : Num) : (dropEntry n s).trunks = s.trunks := by
  rfl

@[simp] theorem dropEntry_hostEgress (n : Num) : (dropEntry n s).hostEgress = s.hostEgress := by
  rfl

@[simp] theorem putTicket_trunks (k : Ticket) : (putTicket k s).trunks = s.trunks := by
  rfl

@[simp] theorem putTicket_hostEgress (k : Ticket) : (putTicket k s).hostEgress = s.hostEgress := by
  rfl

@[simp] theorem heard_trunks (t : TrunkId) (n : Num) : (heard t n s).trunks = s.trunks := by
  unfold heard
  split
  · rfl
  · split
    · simp only
      split <;> simp
    · rfl

@[simp] theorem heard_hostEgress (t : TrunkId) (n : Num) : (heard t n s).hostEgress = s.hostEgress := by
  unfold heard
  split
  · rfl
  · split
    · simp only
      split <;> simp
    · rfl

@[simp] theorem missed_trunks (t : TrunkId) (n : Num) : (missed t n s).trunks = s.trunks := by
  unfold missed
  split
  · rfl
  · split
    · split <;> simp
    · rfl

@[simp] theorem missed_hostEgress (t : TrunkId) (n : Num) : (missed t n s).hostEgress = s.hostEgress := by
  unfold missed
  split
  · rfl
  · split
    · split <;> simp
    · rfl

@[simp] theorem acknowledged_trunks (t : TrunkId) (n : Num) : (acknowledged t n s).trunks = s.trunks := by
  unfold acknowledged
  split
  · rfl
  · split <;> simp

@[simp] theorem acknowledged_hostEgress (t : TrunkId) (n : Num) : (acknowledged t n s).hostEgress = s.hostEgress := by
  unfold acknowledged
  split
  · rfl
  · split <;> simp

@[simp] theorem setResync_trunks (t : TrunkId) (n : Num) : (setResync t n s).trunks = s.trunks := by
  unfold setResync
  split
  · rfl
  · split <;> simp

@[simp] theorem setResync_hostEgress (t : TrunkId) (n : Num) : (setResync t n s).hostEgress = s.hostEgress := by
  unfold setResync
  split
  · rfl
  · split <;> simp

@[simp] theorem removeStation_trunks (n : Num) (st : Station) (c : Cause) : (removeStation n st c s).trunks = s.trunks := by
  unfold removeStation
  simp only [wakeHome_trunks]
  split <;> simp [countDir]

@[simp] theorem removeStation_hostEgress (n : Num) (st : Station) (c : Cause) : (removeStation n st c s).hostEgress = s.hostEgress := by
  unfold removeStation
  simp only [wakeHome_hostEgress]
  split <;> simp [countDir]

@[simp] theorem releaseSource_trunks (n : Num) (b : Nat) : (releaseSource n b s).trunks = s.trunks := by
  unfold releaseSource
  split
  · rfl
  · simp only
    split
    · split
      · simp
      · split <;> simp
    · split <;> simp

@[simp] theorem releaseSource_hostEgress (n : Num) (b : Nat) : (releaseSource n b s).hostEgress = s.hostEgress := by
  unfold releaseSource
  split
  · rfl
  · simp only
    split
    · split
      · simp
      · split <;> simp
    · split <;> simp

@[simp] theorem chargeSource_trunks (t : TrunkId) (n : Num) (m : Bool) (b : Nat) : (chargeSource t n m b s).trunks = s.trunks := by
  unfold chargeSource
  split <;> simp

@[simp] theorem chargeSource_hostEgress (t : TrunkId) (n : Num) (m : Bool) (b : Nat) : (chargeSource t n m b s).hostEgress = s.hostEgress := by
  unfold chargeSource
  split <;> simp

@[simp] theorem testLow_trunks : (testLow s).trunks = s.trunks := by
  unfold testLow
  split <;> simp

@[simp] theorem testLow_hostEgress : (testLow s).hostEgress = s.hostEgress := by
  unfold testLow
  split <;> simp

@[simp] theorem testRecovered_trunks : (testRecovered s).trunks = s.trunks := by
  unfold testRecovered
  split <;> simp

@[simp] theorem testRecovered_hostEgress : (testRecovered s).hostEgress = s.hostEgress := by
  unfold testRecovered
  split <;> simp

@[simp] theorem reportRelease_trunks (k : Ticket) : (reportRelease k s).trunks = s.trunks := by
  unfold reportRelease
  split <;> simp

@[simp] theorem reportRelease_hostEgress (k : Ticket) : (reportRelease k s).hostEgress = s.hostEgress := by
  unfold reportRelease
  split <;> simp

@[simp] theorem releaseFilling_trunks (n : Nat) : (releaseFilling n s).trunks = s.trunks := by
  unfold releaseFilling
  split <;> simp

@[simp] theorem releaseFilling_hostEgress (n : Nat) : (releaseFilling n s).hostEgress = s.hostEgress := by
  unfold releaseFilling
  split <;> simp

@[simp] theorem giveBack_trunks (h : Option Held) : (giveBack h s).trunks = s.trunks := by
  unfold giveBack
  split <;> simp

@[simp] theorem giveBack_hostEgress (h : Option Held) : (giveBack h s).hostEgress = s.hostEgress := by
  unfold giveBack
  split <;> simp

@[simp] theorem dropRef_trunks (n : Nat) : (dropRef n s).trunks = s.trunks := by
  unfold dropRef
  split
  · rfl
  · split <;> simp

@[simp] theorem dropRef_hostEgress (n : Nat) : (dropRef n s).hostEgress = s.hostEgress := by
  unfold dropRef
  split
  · rfl
  · split <;> simp

@[simp] theorem storeTicket_trunks (n r : Nat) : (storeTicket n r s).trunks = s.trunks := by
  unfold storeTicket
  split <;> simp

@[simp] theorem storeTicket_hostEgress (n r : Nat) : (storeTicket n r s).hostEgress = s.hostEgress := by
  unfold storeTicket
  split <;> simp

@[simp] theorem fillTicket_trunks (n : Nat) (d : Num) (c : Byte) (data : List Byte) :
    (fillTicket n d c data s).trunks = s.trunks := by
  unfold fillTicket
  split <;> simp

@[simp] theorem fillTicket_hostEgress (n : Nat) (d : Num) (c : Byte) (data : List Byte) :
    (fillTicket n d c data s).hostEgress = s.hostEgress := by
  unfold fillTicket
  split <;> simp

@[simp] theorem fillTicket_dir (n : Nat) (d : Num) (c : Byte) (data : List Byte) : (fillTicket n d c data s).dir = s.dir := by
  unfold fillTicket
  split <;> rfl

@[simp] theorem fillTicket_params (n : Nat) (d : Num) (c : Byte) (data : List Byte) :
    (fillTicket n d c data s).params = s.params := by
  unfold fillTicket
  split <;> rfl

@[simp] theorem fillTicket_link (n : Nat) (d : Num) (c : Byte) (data : List Byte) : (fillTicket n d c data s).link = s.link := by
  unfold fillTicket
  split <;> rfl

@[simp] theorem countFailure_trunks (r : Reason) : (countFailure r s).trunks = s.trunks := by
  unfold countFailure
  split <;> rfl

@[simp] theorem countFailure_hostEgress (r : Reason) : (countFailure r s).hostEgress = s.hostEgress := by
  unfold countFailure
  split <;> rfl

@[simp] theorem reserve_trunks (p : Port) (n : Num) (l : Nat) : (reserve p n l s).1.trunks = s.trunks := by
  unfold reserve
  split <;> simp

@[simp] theorem reserve_hostEgress (p : Port) (n : Num) (l : Nat) : (reserve p n l s).1.hostEgress = s.hostEgress := by
  unfold reserve
  split <;> simp

/-- Trunks' records that are equal read equal. -/
theorem trunk_of_trunks {s u : State} (h : u.trunks = s.trunks) (t : TrunkId) : u.trunk t = s.trunk t := by
  unfold State.trunk
  rw [h]

/-- FIFOs are read from the trunks' records and the HOST egress. -/
theorem fifo_of_trunks {s u : State} (h : u.trunks = s.trunks) (hh : u.hostEgress = s.hostEgress) (e : Port) (c : Cls) :
    u.fifo e c = s.fifo e c := by
  cases e
  · simp only [State.fifo, trunk_of_trunks h]
  · simp only [State.fifo, hh]

end Sys2Proof.Machine
end

