-- ==== Sys2Proof/Laws/Queues.lean ====
section
/-!
SUPPORT. What removals and reports leave of the FIFOs: a flushed entry's effects, a class emptied by a mode change, the closing effects.
-/

namespace Sys2Proof.Machine

theorem resyncAfter_trunks (t : TrunkId) (q : QEntry) (s : State) : (resyncAfter t q s).trunks = s.trunks := by
  unfold resyncAfter
  split
  · split <;> simp
  · rfl

theorem resyncAfter_hostEgress (t : TrunkId) (q : QEntry) (s : State) : (resyncAfter t q s).hostEgress = s.hostEgress := by
  unfold resyncAfter
  split
  · split <;> simp
  · rfl

/-- The effects of a flushed entry touch no FIFO. -/
theorem flushedEntry_fifo (t : TrunkId) (q : QEntry) (s : State) (e : Port) (c : Cls) :
    (flushedEntry t q s).fifo e c = s.fifo e c := by
  unfold flushedEntry
  rw [fifo_of_trunks (dropRef_trunks _ _) (dropRef_hostEgress _ _),
    fifo_of_trunks (resyncAfter_trunks _ _ _) (resyncAfter_hostEgress _ _ _)]
  exact fifo_modTrunk _ rfl _ _

theorem foldl_flushedEntry_fifo (t : TrunkId) (l : List QEntry) (s : State) (e : Port) (c : Cls) :
    (l.foldl (fun acc x => flushedEntry t x acc) s).fifo e c = s.fifo e c := by
  induction l generalizing s with
  | nil => rfl
  | cons x xs ih => rw [List.foldl_cons, ih, flushedEntry_fifo]

theorem emptyClass_fifo (t : TrunkId) (c : Cls) (s : State) (e : Port) (k : Cls) :
    (emptyClass t c s).fifo e k = if e = .trunk t ∧ k = c then [] else s.fifo e k := by
  unfold emptyClass
  rw [foldl_flushedEntry_fifo, fifo_setFifo]

/-- A mode change that flushes leaves every class of the egress empty. -/
theorem emptyEgress_fifo (t : TrunkId) (s : State) (c : Cls) : (emptyEgress t s).1.fifo (.trunk t) c = [] := by
  simp only [emptyEgress, emptyClass_fifo]
  match c with
  | 0 | 1 | 2 | 3 => simp

theorem closeEntry_trunks (t : TrunkId) (n : Num) (s : State) : (closeEntry t n s).trunks = s.trunks := by
  unfold closeEntry
  split
  · rfl
  · split
    · split
      · split <;> simp
      · simp only
        split <;> simp
    · rfl

/-- The closing effects touch no trunk's record. -/
theorem closingEffects_trunks (t : TrunkId) (s : State) : (closingEffects t s).trunks = s.trunks := by
  unfold closingEffects
  generalize s.dir.map DirEntry.num = l
  induction l generalizing s with
  | nil => rfl
  | cons x xs ih => rw [List.foldl_cons, ih, closeEntry_trunks]

end Sys2Proof.Machine
end

