-- ==== Sys2Proof/Laws/Picks.lean ====
section
/-!
SUPPORT. What a pick, and the work decision around it, leave of the transmitter: the message under way and the resend due; and what the
HOST pick takes from its egress.
-/

namespace Sys2Proof.Machine

variable {s : State}

/-- What the transmitter sends, and the resend it owes. -/
def HostLink.sending (l : HostLink) : HostTx × ResendDue := (l.tx, l.resendDue)

@[simp] theorem raise_sending (f : NoticeFields) : (raise f s).link.sending = s.link.sending := by
  unfold raise
  split
  · split <;> rfl
  · rfl

@[simp] theorem countTrunk_link (t : TrunkId) (f : TrunkCounters → TrunkCounters) : (countTrunk t f s).link = s.link := rfl

@[simp] theorem countDir_link (f : DirCounters → DirCounters) : (countDir f s).link = s.link := rfl

@[simp] theorem putStation_link (n : Num) (st : Station) : (putStation n st s).link = s.link := rfl

@[simp] theorem dropEntry_link (n : Num) : (dropEntry n s).link = s.link := rfl

@[simp] theorem setFifo_link (e : Port) (c : Cls) (q : List QEntry) : (setFifo e c q s).link = s.link := by
  cases e <;> rfl

@[simp] theorem popHead_link (e : Port) (c : Cls) : (popHead e c s).link = s.link := setFifo_link _ _ _

theorem removeStation_sending (n : Num) (st : Station) (c : Cause) : (removeStation n st c s).link.sending = s.link.sending := by
  unfold removeStation
  simp only [wakeHome_link]
  split <;> simp

theorem releaseSource_sending (n : Num) (b : Nat) : (releaseSource n b s).link.sending = s.link.sending := by
  unfold releaseSource
  split
  · rfl
  · simp only
    split
    · split
      · simp [removeStation_sending]
      · split <;> simp
    · split <;> simp

theorem testRecovered_sending : (testRecovered s).link.sending = s.link.sending := by
  unfold testRecovered
  split <;> simp

@[simp] theorem dropRef_sending (n : Nat) : (dropRef n s).link.sending = s.link.sending := by
  unfold dropRef
  split
  · rfl
  · split
    · rw [testRecovered_sending]
      unfold reportRelease
      split
      · exact releaseSource_sending _ _
      · rfl
    · rfl

@[simp] theorem raiseUndelivered_sending (e : Port) (q : QEntry) (r : Undelivered) :
    (raiseUndelivered e q r s).link.sending = s.link.sending := by
  unfold raiseUndelivered
  split <;> simp

@[simp] theorem resyncAfter_link (t : TrunkId) (q : QEntry) : (resyncAfter t q s).link = s.link := by
  unfold resyncAfter
  split
  · split
    · unfold setResync
      split
      · rfl
      · split <;> rfl
    · rfl
  · rfl

@[simp] theorem giveUp_sending (t : TrunkId) (c : Cls) (q : QEntry) (r : Undelivered) :
    (giveUp t c q r s).link.sending = s.link.sending := by
  unfold giveUp
  simp only [dropRef_sending, raiseUndelivered_sending]
  split <;> simp [countGivenUp]

@[simp] theorem reroute_link (t : TrunkId) (c : Cls) (q : QEntry) (u : TrunkId) : (reroute t c q u s).link = s.link := by
  unfold reroute appendEntry
  simp [wakePort]

theorem chooseClass_link (t : TrunkId) : (chooseClass t s).1.link = s.link := by
  unfold chooseClass
  split
  · rfl
  · split <;> rfl

theorem pickWithin_sending (fuel : Nat) (t : TrunkId) : (pickWithin fuel t s).1.link.sending = s.link.sending := by
  induction fuel generalizing s with
  | zero => rfl
  | succ n ih =>
    have h := chooseClass_link (s := s) t
    unfold pickWithin
    split
    · next hc => rw [hc] at h; exact congrArg HostLink.sending h
    · next hc =>
      rw [hc] at h
      split
      · exact congrArg HostLink.sending h
      · split
        · exact congrArg HostLink.sending h
        · rw [ih, giveUp_sending]; exact congrArg HostLink.sending h
        · rw [ih, reroute_link]; exact congrArg HostLink.sending h

/-- A pick leaves the transmitter alone. -/
theorem pickTrunk_sending (t : TrunkId) : (pickTrunk t s).1.link.sending = s.link.sending := pickWithin_sending _ _

@[simp] theorem beginTxn_link (t : TrunkId) (a : Activity) (k : TxnKind) : (beginTxn t a k s).link = s.link := rfl

@[simp] theorem beginEntry_link (t : TrunkId) (p : Cls × QEntry) : (beginEntry t p s).link = s.link := by
  unfold beginEntry
  split <;> rfl

theorem decideLast_sending (t : TrunkId) : (decideLast t s).1.link.sending = s.link.sending := by
  have h := pickTrunk_sending (s := s) t
  unfold decideLast
  split
  · next hp => rw [hp] at h; simpa using h
  · next hp =>
    rw [hp] at h
    split
    · exact h
    · exact h

theorem decideFromStart_sending (t : TrunkId) : (decideFromStart t s).1.link.sending = s.link.sending := by
  unfold decideFromStart
  split
  · rfl
  · split
    · rfl
    · exact decideLast_sending _

theorem decideCycle_sending (t : TrunkId) : (decideCycle t s).1.link.sending = s.link.sending := by
  unfold decideCycle
  split
  · rfl
  · split
    · rfl
    · rw [decideFromStart_sending]; rfl

theorem decideOnce_sending (t : TrunkId) : (decideOnce t s).1.link.sending = s.link.sending := by
  have h := pickTrunk_sending (s := s) t
  unfold decideOnce
  split
  · split
    · next hp => rw [hp] at h; simpa using h
    · next hp => rw [hp] at h; rw [decideCycle_sending]; exact h
  · exact decideCycle_sending _

theorem decideWithin_sending (fuel : Nat) (t : TrunkId) : (decideWithin fuel t s).link.sending = s.link.sending := by
  induction fuel generalizing s with
  | zero => rfl
  | succ n ih =>
    have h := decideOnce_sending (s := s) t
    unfold decideWithin
    split
    · next hd => rw [hd] at h; rw [ih]; exact h
    · next hd => rw [hd] at h; exact h

/-- A work decision leaves the transmitter alone. -/
theorem workDecision_sending (t : TrunkId) : (workDecision t s).link.sending = s.link.sending := by
  unfold workDecision
  split
  · exact decideWithin_sending _ _
  · rfl

/-! ### The HOST pick -/

theorem hostClass_eq_none : s.hostClass = none ↔ ∀ c, s.fifo .host c = [] := by
  unfold State.hostClass
  rw [List.find?_eq_none]
  constructor
  · intro h c
    have := h c (by match c with | 0 | 1 | 2 | 3 => simp)
    simpa using this
  · intro h c _
    simp [h c]

theorem hostClass_eq_some {c : Cls} (h : s.fifo .host c ≠ []) (hh : ∀ d, c < d → s.fifo .host d = []) :
    s.hostClass = some c := by
  unfold State.hostClass
  match c with
  | 3 => simp [h]
  | 2 => simp [h, hh 3 (by decide)]
  | 1 => simp [h, hh 3 (by decide), hh 2 (by decide)]
  | 0 => simp [h, hh 3 (by decide), hh 2 (by decide), hh 1 (by decide)]

/-- The entries of an egress whose head is removed. -/
theorem entries_setFifo_tail {e : Port} {c : Cls} {q : QEntry} {qs : List QEntry} (h : s.fifo e c = q :: qs) :
    (setFifo e c qs s).entries e + 1 = s.entries e := by
  unfold State.entries
  simp only [fifo_setFifo, true_and]
  match c with
  | 0 | 1 | 2 | 3 => simp [h]; omega

theorem raiseUndelivered_fifo (e : Port) (q : QEntry) (r : Undelivered) (f : Port) (c : Cls) :
    (raiseUndelivered e q r s).fifo f c = s.fifo f c := by
  unfold raiseUndelivered
  split
  · exact fifo_of_trunks (raise_trunks _ _) (raise_hostEgress _ _) _ _
  · rfl

theorem dropRef_fifo (n : Nat) (e : Port) (c : Cls) : (dropRef n s).fifo e c = s.fifo e c :=
  fifo_of_trunks (dropRef_trunks _ _) (dropRef_hostEgress _ _) _ _

theorem entries_giveUpHost {c : Cls} {q : QEntry} {qs : List QEntry} (h : s.fifo .host c = q :: qs) :
    (giveUpHost c q s).entries .host + 1 = s.entries .host := by
  rw [← entries_setFifo_tail h]
  congr 1
  refine entries_congr fun k => ?_
  unfold giveUpHost
  rw [dropRef_fifo, raiseUndelivered_fifo, popHead, h, List.tail_cons]

/-- A HOST pick that yields nothing has found every class empty. -/
theorem hostPickWithin_none {n : Nat} {s u : State} (hn : s.entries .host < n) (h : hostPickWithin n s = (u, none)) (c : Cls) :
    u.fifo .host c = [] := by
  induction n generalizing s with
  | zero => omega
  | succ n ih =>
    unfold hostPickWithin at h
    split at h
    · next hc => cases h; exact hostClass_eq_none.mp hc c
    · next d hc =>
      split at h
      · next hf =>
        have := List.find?_some hc
        simp [hf] at this
      · next q qs hf =>
        have := entries_giveUpHost hf
        split at h
        · cases h
        · split at h
          · exact ih (by omega) h
          · cases h

theorem hostPick_none {u : State} (h : hostPick s = (u, none)) (c : Cls) : u.fifo .host c = [] :=
  hostPickWithin_none (Nat.lt_succ_self _) h c

/-- A HOST pick at an empty egress changes nothing. -/
theorem hostPick_empty (h : ∀ c, s.fifo .host c = []) : hostPick s = (s, none) := by
  unfold hostPick hostPickWithin
  rw [hostClass_eq_none.mpr h]

theorem hostPickWithin_sending (fuel : Nat) : (hostPickWithin fuel s).1.link.sending = s.link.sending := by
  induction fuel generalizing s with
  | zero => rfl
  | succ n ih =>
    unfold hostPickWithin
    split
    · rfl
    · split
      · rfl
      · split
        · rfl
        · split
          · rw [ih]; unfold giveUpHost; simp
          · rfl

end Sys2Proof.Machine
end

