-- ==== Sys2Proof/Laws/Store.lean ====
section
/-!
SUPPORT. The ticket list and the occupancies: reading after writing, the order of the list, the sums the laws of the store speak of, the
lowest FREE number, the reservation and the reference drop.
-/

namespace Sys2Proof.Machine

/-! ### Occupancies -/

theorem occupancy_get_put (o : Occupancy) (p q : Port) (v : Nat) : (o.put p v).get q = if q = p then v else o.get q := by
  cases p <;> cases q <;> simp [Occupancy.put, Occupancy.get, Quad.get_set]

/-! ### The ticket list -/

theorem find_putTicketInto (k : Ticket) (l : List Ticket) (n : Nat) :
    (putTicketInto k l).find? (fun x => x.num = n) = if n = k.num then some k else l.find? (fun x => x.num = n) := by
  induction l with
  | nil =>
    simp only [putTicketInto, List.find?_cons, List.find?_nil]
    by_cases hn : n = k.num
    · simp [hn]
    · simp [hn, Ne.symm hn]
  | cons y ys ih =>
    simp only [putTicketInto]
    split
    · by_cases hn : n = k.num
      · simp [hn]
      · rw [if_neg hn, List.find?_cons]
        simp [Ne.symm hn]
    · split
      · next h =>
        by_cases hn : n = k.num
        · simp [hn]
        · rw [if_neg hn]
          simp [Ne.symm hn, ← h]
      · next h1 h2 =>
        rw [List.find?_cons, ih, List.find?_cons]
        by_cases hn : n = k.num
        · subst hn
          rw [if_pos rfl, if_pos rfl]
          simp [Ne.symm h2]
        · rw [if_neg hn, if_neg hn]

theorem mem_putTicketInto {k x : Ticket} {l : List Ticket} (h : x ∈ putTicketInto k l) : x = k ∨ x ∈ l := by
  induction l with
  | nil => exact .inl (by simpa [putTicketInto] using h)
  | cons y ys ih =>
    simp only [putTicketInto] at h
    split at h
    · simpa using h
    · split at h
      · rcases List.mem_cons.mp h with h | h
        · exact .inl h
        · exact .inr (List.mem_cons_of_mem _ h)
      · rcases List.mem_cons.mp h with h | h
        · exact .inr (h ▸ List.mem_cons_self)
        · rcases ih h with h | h
          · exact .inl h
          · exact .inr (List.mem_cons_of_mem _ h)

theorem putTicketInto_rising {k : Ticket} {l : List Ticket} (h : l.Pairwise fun a b => a.num < b.num) :
    (putTicketInto k l).Pairwise fun a b => a.num < b.num := by
  induction l with
  | nil => simp [putTicketInto]
  | cons y ys ih =>
    have ⟨h1, h2⟩ := List.pairwise_cons.mp h
    simp only [putTicketInto]
    split
    · next hlt =>
      refine List.pairwise_cons.mpr ⟨fun z hz => ?_, h⟩
      rcases List.mem_cons.mp hz with rfl | hz
      · exact hlt
      · exact lt_trans hlt (h1 z hz)
    · split
      · next heq => exact List.pairwise_cons.mpr ⟨fun z hz => by rw [heq]; exact h1 z hz, h2⟩
      · next hn he =>
        refine List.pairwise_cons.mpr ⟨fun z hz => ?_, ih h2⟩
        rcases mem_putTicketInto hz with rfl | hz
        · omega
        · exact h1 z hz

/-- A weight summed over the list with a new ticket put in. -/
theorem sum_putTicketInto_new (w : Ticket → Nat) (k : Ticket) {l : List Ticket} (h : ∀ x ∈ l, x.num ≠ k.num) :
    ((putTicketInto k l).map w).sum = (l.map w).sum + w k := by
  induction l with
  | nil => simp [putTicketInto]
  | cons y ys ih =>
    simp only [putTicketInto]
    split
    · simp
      omega
    · rw [if_neg fun hh => h y List.mem_cons_self hh.symm]
      simp only [List.map_cons, List.sum_cons]
      rw [ih fun x hx => h x (List.mem_cons_of_mem _ hx)]
      omega

/-- A weight summed over the list with a ticket put in place of one of the same weight. -/
theorem sum_putTicketInto_old (w : Ticket → Nat) {k o : Ticket} {l : List Ticket}
    (h : l.Pairwise fun a b => a.num < b.num) (hf : l.find? (fun x => x.num = k.num) = some o) (hw : w k = w o) :
    ((putTicketInto k l).map w).sum = (l.map w).sum := by
  induction l with
  | nil => cases hf
  | cons y ys ih =>
    have ⟨h1, h2⟩ := List.pairwise_cons.mp h
    simp only [putTicketInto]
    rw [List.find?_cons] at hf
    by_cases hy : y.num = k.num
    · simp only [hy, decide_true, Option.some.injEq] at hf
      subst hf
      simp [hy, hw]
    · simp only [hy, decide_false] at hf
      have ho : o.num = k.num := by simpa using List.find?_some hf
      have := h1 o (List.mem_of_find?_eq_some hf)
      rw [if_neg (by omega), if_neg (by omega)]
      simp only [List.map_cons, List.sum_cons, ih h2 hf]

/-- A weight summed over the list, one ticket apart. -/
theorem sum_release (w : Ticket → Nat) {k : Ticket} {l : List Ticket} (h : l.Pairwise fun a b => a.num < b.num)
    (hf : l.find? (fun x => x.num = k.num) = some k) :
    (l.map w).sum = ((l.filter fun x => x.num ≠ k.num).map w).sum + w k := by
  induction l with
  | nil => cases hf
  | cons y ys ih =>
    have ⟨h1, h2⟩ := List.pairwise_cons.mp h
    rw [List.find?_cons] at hf
    by_cases hy : y.num = k.num
    · simp only [hy, decide_true, Option.some.injEq] at hf
      subst hf
      have : ys.filter (fun x => decide (x.num ≠ y.num)) = ys := by
        rw [List.filter_eq_self]
        intro z hz
        have := h1 z hz
        exact decide_eq_true (by omega)
      rw [List.filter_cons_of_neg (by simp), this]
      simp only [List.map_cons, List.sum_cons]
      omega
    · simp only [hy, decide_false] at hf
      rw [List.filter_cons_of_pos (by simp [hy])]
      simp only [List.map_cons, List.sum_cons, ih h2 hf]
      omega

theorem portBlocks_eq (p : Port) (l : List Ticket) :
    portBlocks p l = (l.map fun k => if k.port = p then k.blocks else 0).sum := by
  unfold portBlocks blocksOf
  induction l with
  | nil => rfl
  | cons y ys ih => by_cases h : y.port = p <;> simp [h, ih]

/-! ### The lowest FREE number -/

theorem le_lowestFrom (n : Nat) (l : List Ticket) : n ≤ lowestFrom n l := by
  induction l generalizing n with
  | nil => exact le_rfl
  | cons y ys ih =>
    unfold lowestFrom
    split
    · exact (Nat.le_succ n).trans (ih _)
    · exact le_rfl

/-- In a rising list no ticket has the lowest FREE number. -/
theorem ne_lowestFrom {n : Nat} {l : List Ticket} (h : l.Pairwise fun a b => a.num < b.num) (hn : ∀ x ∈ l, n ≤ x.num) :
    ∀ x ∈ l, x.num ≠ lowestFrom n l := by
  induction l generalizing n with
  | nil => simp
  | cons y ys ih =>
    have ⟨h1, h2⟩ := List.pairwise_cons.mp h
    unfold lowestFrom
    split
    · next hy =>
      intro x hx
      rcases List.mem_cons.mp hx with rfl | hx
      · have := le_lowestFrom (n + 1) ys
        omega
      · refine ih h2 (fun z hz => ?_) x hx
        have := h1 z hz
        omega
    · have := hn y List.mem_cons_self
      intro x hx
      rcases List.mem_cons.mp hx with rfl | hx
      · omega
      · have := h1 x hx
        omega

/-- Every number below the lowest FREE one is a ticket's. -/
theorem find_below_lowestFrom {n m : Nat} {l : List Ticket} (h1 : n ≤ m) (h2 : m < lowestFrom n l) :
    l.find? (fun x => x.num = m) ≠ none := by
  induction l generalizing n with
  | nil =>
    simp only [lowestFrom] at h2
    omega
  | cons y ys ih =>
    unfold lowestFrom at h2
    split at h2
    · next hy =>
      rw [List.find?_cons]
      by_cases hm : y.num = m
      · simp [hm]
      · simp only [hm, decide_false]
        exact ih (by omega) h2
    · omega

/-! ### The tests of a low and a recovered pool -/

theorem testLow_store (s : State) :
    (testLow s).store = { s.store with low := s.store.low || s.store.freeBlocks < s.params.poolLow } := by
  unfold testLow
  split
  · next h => simp [h]
  · next h =>
    cases hl : s.store.low
    · have : ¬ s.store.freeBlocks < s.params.poolLow := fun hh => h ⟨hh, hl⟩
      simp only [this, decide_false, Bool.or_false]
      rw [← hl]
    · simp only [Bool.true_or]
      rw [← hl]

theorem testRecovered_store (s : State) :
    (testRecovered s).store =
      { s.store with low := s.store.low && s.store.freeBlocks ≤ s.params.poolLow + Config.poolRecovery } := by
  unfold testRecovered
  split
  · next h =>
    have : ¬ s.store.freeBlocks ≤ s.params.poolLow + Config.poolRecovery := by omega
    simp [this]
  · next h =>
    cases hl : s.store.low
    · simp only [Bool.false_and]
      rw [← hl]
    · have : s.store.freeBlocks ≤ s.params.poolLow + Config.poolRecovery := by
        by_contra hc
        exact h ⟨by omega, hl⟩
      simp only [this, decide_true, Bool.true_and]
      rw [← hl]

end Sys2Proof.Machine
end

