-- ==== Sys2Proof/Laws/Arrivals.lean ====
section
/-!
SUPPORT. The end of an arrival: what filling its ticket changes, what its release leaves of that, and the entries an acceptance appends.
-/

namespace Sys2Proof.Machine

variable {s : State}

theorem filter_putTicketInto (k : Ticket) (l : List Ticket) :
    (putTicketInto k l).filter (fun x => x.num ≠ k.num) = l.filter fun x => x.num ≠ k.num := by
  induction l with
  | nil => simp [putTicketInto]
  | cons y ys ih =>
    simp only [putTicketInto]
    split
    · simp
    · split
      · next h => simp [← h]
      · next h =>
        rw [List.filter_cons, List.filter_cons, ih]

theorem ticket_num {n : Nat} {k : Ticket} (h : s.ticket n = some k) : k.num = n := by
  have := List.find?_some h
  simpa using this

/-- A filled ticket, in terms of what it was. -/
theorem fillTicket_eq {n : Nat} {k : Ticket} (h : s.ticket n = some k) (d : Num) (c : Byte) (data : List Byte) :
    fillTicket n d c data s = putTicket { k with dest := some d, cls := some c, data := data } s := by
  unfold fillTicket
  rw [h]

theorem ticket_putTicket (k : Ticket) (m : Nat) : (putTicket k s).ticket m = if m = k.num then some k else s.ticket m :=
  find_putTicketInto k _ m

theorem fillTicket_ticket {n : Nat} {k : Ticket} (h : s.ticket n = some k) (d : Num) (c : Byte) (data : List Byte) (m : Nat) :
    (fillTicket n d c data s).ticket m =
      if m = n then some { k with dest := some d, cls := some c, data := data } else s.ticket m := by
  rw [fillTicket_eq h, ticket_putTicket]
  simp only [ticket_num h]

/-- A released arrival leaves nothing of what its ticket was filled with. -/
theorem releaseFilling_fillTicket (n : Nat) (d : Num) (c : Byte) (data : List Byte) :
    releaseFilling n (fillTicket n d c data s) = releaseFilling n s := by
  cases h : s.ticket n with
  | none =>
    unfold fillTicket
    rw [h]
  | some k =>
    have h1 := fillTicket_ticket h d c data n
    rw [if_pos rfl] at h1
    unfold releaseFilling
    rw [h1, h, fillTicket_eq h]
    simp only [putTicket, Store.release, State.setStore]
    rw [filter_putTicketInto { k with dest := some d, cls := some c, data := data }]

theorem fillTicket_modLink (n : Nat) (d : Num) (c : Byte) (data : List Byte) (f : HostLink → HostLink) :
    fillTicket n d c data (s.modLink f) = (fillTicket n d c data s).modLink f := by
  unfold fillTicket
  rw [show (s.modLink f).ticket n = s.ticket n from rfl]
  split <;> rfl

theorem fillTicket_modTrunk (n : Nat) (d : Num) (c : Byte) (data : List Byte) (t : TrunkId) (f : Trunk → Trunk) :
    fillTicket n d c data (s.modTrunk t f) = (fillTicket n d c data s).modTrunk t f := by
  unfold fillTicket
  rw [show (s.modTrunk t f).ticket n = s.ticket n from rfl]
  split <;> rfl

theorem ticket_congr {s u : State} (h : u.store = s.store) (n : Nat) : u.ticket n = s.ticket n := by
  unfold State.ticket
  rw [h]

theorem ticket_putTicket_of {n : Nat} {k k' : Ticket} (h : s.ticket n = some k) (hk : k'.num = k.num) (m : Nat) :
    (putTicket k' s).ticket m = if m = n then some k' else s.ticket m := by
  rw [ticket_putTicket, hk, ticket_num h]

/-- A stored ticket, in terms of what it was. -/
theorem storeTicket_ticket {n : Nat} {k : Ticket} (h : s.ticket n = some k) (r m : Nat) :
    (storeTicket n r s).ticket m =
      if m = n then some { k with refs := r, storedAt := some s.timebase } else s.ticket m := by
  unfold storeTicket
  rw [h]
  simp only
  exact ticket_putTicket_of h (by rfl) m

theorem storeTicket_ticket_of_ne {n m : Nat} (r : Nat) (h : m ≠ n) : (storeTicket n r s).ticket m = s.ticket m := by
  cases hk : s.ticket n with
  | none => unfold storeTicket; rw [hk]
  | some k => rw [storeTicket_ticket hk, if_neg h]

theorem fillTicket_ticket_of_ne {n m : Nat} (d : Num) (c : Byte) (data : List Byte) (h : m ≠ n) :
    (fillTicket n d c data s).ticket m = s.ticket m := by
  cases hk : s.ticket n with
  | none => unfold fillTicket; rw [hk]
  | some k => rw [fillTicket_ticket hk, if_neg h]

theorem storeTicket_link (n r : Nat) : (storeTicket n r s).link = s.link := by unfold storeTicket; split <;> rfl
theorem storeTicket_dir (n r : Nat) : (storeTicket n r s).dir = s.dir := by unfold storeTicket; split <;> rfl
theorem storeTicket_wakes (n r : Nat) : (storeTicket n r s).wakes = s.wakes := by unfold storeTicket; split <;> rfl
theorem storeTicket_free (n r : Nat) : (storeTicket n r s).store.freeBlocks = s.store.freeBlocks := by
  unfold storeTicket; split <;> rfl
theorem fillTicket_wakes (n : Nat) (d : Num) (c : Byte) (data : List Byte) : (fillTicket n d c data s).wakes = s.wakes := by
  unfold fillTicket; split <;> rfl
theorem fillTicket_clock (n : Nat) (d : Num) (c : Byte) (data : List Byte) : (fillTicket n d c data s).clock = s.clock := by
  unfold fillTicket; split <;> rfl
theorem fillTicket_free (n : Nat) (d : Num) (c : Byte) (data : List Byte) :
    (fillTicket n d c data s).store.freeBlocks = s.store.freeBlocks := by
  unfold fillTicket; split <;> rfl

/-! ### The entries appended -/

theorem wakePort_fifo (e : Port) (f : Port) (c : Cls) : (wakePort e s).fifo f c = s.fifo f c := by
  cases e
  · exact fifo_of_trunks (wake_trunks _ _) (wake_hostEgress _ _) _ _
  · rfl

theorem wakePort_link (e : Port) : (wakePort e s).link = s.link := by cases e <;> simp [wakePort]
theorem wakePort_store (e : Port) : (wakePort e s).store = s.store := by cases e <;> simp [wakePort]
theorem wakePort_dir (e : Port) : (wakePort e s).dir = s.dir := by cases e <;> simp [wakePort]
theorem wakePort_clock (e : Port) : (wakePort e s).clock = s.clock := by cases e <;> simp [wakePort]
theorem setFifo_store (e : Port) (c : Cls) (q : List QEntry) : (setFifo e c q s).store = s.store := by cases e <;> rfl
theorem setFifo_dir (e : Port) (c : Cls) (q : List QEntry) : (setFifo e c q s).dir = s.dir := by cases e <;> rfl
theorem setFifo_clock (e : Port) (c : Cls) (q : List QEntry) : (setFifo e c q s).clock = s.clock := by cases e <;> rfl
theorem setFifo_wakes (e : Port) (c : Cls) (q : List QEntry) : (setFifo e c q s).wakes = s.wakes := by cases e <;> rfl

theorem setFifo_activity (e : Port) (c : Cls) (q : List QEntry) (t : TrunkId) :
    ((setFifo e c q s).trunk t).activity = (s.trunk t).activity := by
  cases e with
  | host => rfl
  | trunk u =>
    simp only [setFifo, State.modTrunk_trunk]
    split
    · next h => rw [h]
    · rfl

theorem wakePort_activity (e : Port) (t : TrunkId) : ((wakePort e s).trunk t).activity = (s.trunk t).activity := by
  cases e <;> simp [wakePort]

theorem wakePort_wakes (e : Port) (t : TrunkId) :
    (wakePort e s).wakes.get t = (s.wakes.get t || ((s.trunk t).activity = .idle && decide (e = .trunk t))) := by
  cases e with
  | host => simp [wakePort]
  | trunk u =>
    simp only [wakePort, wake]
    by_cases h : t = u
    · subst h
      split <;> simp_all
    · split <;> simp [Quad.get_set, h, Ne.symm h]

/-- What an acceptance's appends change: the FIFOs and the wakes, nothing else that these read. -/
structure Appended (s u : State) : Prop where
  store : u.store = s.store
  dir : u.dir = s.dir
  link : u.link = s.link
  clock : u.clock = s.clock
  activity : ∀ t, (u.trunk t).activity = (s.trunk t).activity

theorem appendEntry_appended (e : Port) (c : Cls) (q : QEntry) : Appended s (appendEntry e c q s) where
  store := by unfold appendEntry; rw [wakePort_store, setFifo_store]
  dir := by unfold appendEntry; rw [wakePort_dir, setFifo_dir]
  link := by unfold appendEntry; rw [wakePort_link, setFifo_link]
  clock := by unfold appendEntry; rw [wakePort_clock, setFifo_clock]
  activity t := by unfold appendEntry; rw [wakePort_activity, setFifo_activity]

theorem appendAll_appended (n : Nat) (c : Cls) (needs : List Need) : Appended s (appendAll n c needs s) := by
  unfold appendAll
  induction needs generalizing s with
  | nil => exact ⟨rfl, rfl, rfl, rfl, fun _ => rfl⟩
  | cons x xs ih =>
    rw [List.foldl_cons]
    have a := appendEntry_appended (s := s) x.1 c ⟨n, x.2, 0, false, false⟩
    have b := ih (s := appendEntry x.1 c ⟨n, x.2, 0, false, false⟩ s)
    exact ⟨b.store.trans a.store, b.dir.trans a.dir, b.link.trans a.link, b.clock.trans a.clock,
      fun t => (b.activity t).trans (a.activity t)⟩

theorem appendEntry_fifo (e : Port) (c : Cls) (q : QEntry) (f : Port) (k : Cls) :
    (appendEntry e c q s).fifo f k = if f = e ∧ k = c then s.fifo e c ++ [q] else s.fifo f k := by
  unfold appendEntry
  rw [wakePort_fifo, fifo_setFifo]

theorem appendAll_fifo_other (n : Nat) (c : Cls) (needs : List Need) (e : Port) (k : Cls)
    (h : k ≠ c ∨ e ∉ needs.map Prod.fst) : (appendAll n c needs s).fifo e k = s.fifo e k := by
  unfold appendAll
  induction needs generalizing s with
  | nil => rfl
  | cons x xs ih =>
    rw [List.foldl_cons, ih (h.imp id fun h => by simp at h ⊢; exact h.2), appendEntry_fifo, if_neg]
    rintro ⟨h1, h2⟩
    rcases h with h | h
    · exact h h2
    · exact h (by simp [h1])

/-- Each egress needed has its entry at the tail of the class. -/
theorem appendAll_fifo (n : Nat) (c : Cls) (needs : List Need) (hn : (needs.map Prod.fst).Nodup) (x : Need) (hx : x ∈ needs) :
    (appendAll n c needs s).fifo x.1 c = s.fifo x.1 c ++ [⟨n, x.2, 0, false, false⟩] := by
  induction needs generalizing s with
  | nil => cases hx
  | cons y ys ih =>
    have hn' := List.nodup_cons.mp hn
    rw [show appendAll n c (y :: ys) s = appendAll n c ys (appendEntry y.1 c ⟨n, y.2, 0, false, false⟩ s) from rfl]
    rcases List.mem_cons.mp hx with rfl | h
    · rw [appendAll_fifo_other n c ys _ _ (.inr hn'.1), appendEntry_fifo, if_pos ⟨rfl, rfl⟩]
    · rw [ih hn'.2 h, appendEntry_fifo, if_neg]
      rintro ⟨h1, _⟩
      exact hn'.1 (h1 ▸ List.mem_map_of_mem h)

/-- The IDLE controllers of the trunk egresses appended to are woken. -/
theorem appendAll_wakes (n : Nat) (c : Cls) (needs : List Need) (t : TrunkId) :
    (appendAll n c needs s).wakes.get t =
      (s.wakes.get t || ((s.trunk t).activity = .idle && (needs.map Prod.fst).contains (.trunk t))) := by
  induction needs generalizing s with
  | nil => simp [appendAll]
  | cons y ys ih =>
    rw [show appendAll n c (y :: ys) s = appendAll n c ys (appendEntry y.1 c ⟨n, y.2, 0, false, false⟩ s) from rfl, ih,
      (appendEntry_appended _ _ _).activity]
    unfold appendEntry
    rw [wakePort_wakes, setFifo_wakes, setFifo_activity, List.map_cons, List.contains_cons]
    by_cases h : y.1 = .trunk t
    · rw [h]
      cases s.wakes.get t <;> cases decide ((s.trunk t).activity = .idle) <;> simp
    · rw [show (Port.trunk t == y.1) = false from beq_false_of_ne (Ne.symm h), decide_eq_false h]
      simp

end Sys2Proof.Machine
end

