-- ==== Sys2Proof/Laws/Directory.lean ====
section
/-!
SUPPORT. The directory's list: reading after writing, its order, its length and its count of PINNED and GROUP entries.
-/

namespace Sys2Proof.Machine

/-- A 16-bit count raised, its largest value spelled out. -/
theorem up16_eq (c : BitVec 16) : up16 c = if c = 65535 then 65535 else c + 1 := by
  unfold up16
  rw [show BitVec.allOnes 16 = (65535 : BitVec 16) by decide]
  split
  · next h => exact h
  · rfl

theorem find_putInto (e : DirEntry) (l : List DirEntry) (n : Num) :
    (putInto e l).find? (fun x => x.num = n) = if n = e.num then some e else l.find? (fun x => x.num = n) := by
  induction l with
  | nil =>
    simp only [putInto, List.find?_cons, List.find?_nil]
    by_cases hn : n = e.num
    · simp [hn]
    · simp [hn, Ne.symm hn]
  | cons y ys ih =>
    simp only [putInto]
    split
    · by_cases hn : n = e.num
      · simp [hn]
      · rw [if_neg hn, List.find?_cons]
        simp [Ne.symm hn]
    · split
      · next h =>
        by_cases hn : n = e.num
        · simp [hn]
        · rw [if_neg hn]
          simp [Ne.symm hn, ← h]
      · next h1 h2 =>
        rw [List.find?_cons, ih, List.find?_cons]
        by_cases hn : n = e.num
        · subst hn
          rw [if_pos rfl, if_pos rfl]
          simp [Ne.symm h2]
        · rw [if_neg hn, if_neg hn]

/-- An entry written is read; the others are as they were. -/
theorem entry_setDir_putInto (s : State) (e : DirEntry) (n : Num) :
    (s.setDir (putInto e s.dir)).entry n = if n = e.num then some e else s.entry n := find_putInto _ _ _

theorem entry_putStation (s : State) (m : Num) (st : Station) (n : Num) :
    (putStation m st s).entry n = if n = m then some ⟨m, .station st⟩ else s.entry n := find_putInto _ _ _

theorem station_putStation (s : State) (m : Num) (st : Station) (n : Num) :
    (putStation m st s).station n = if n = m then some st else s.station n := by
  unfold State.station
  rw [entry_putStation]
  split <;> rfl

/-- An entry removed is gone; the others are as they were. -/
theorem entry_dropEntry (s : State) (m n : Num) :
    (dropEntry m s).entry n = if n = m then none else s.entry n := by
  show (s.dir.filter fun e => decide (e.num ≠ m)).find? _ = _
  rw [List.find?_filter]
  split
  · next h =>
    subst h
    simp
  · next h =>
    show _ = s.dir.find? _
    congr 1
    funext e
    by_cases he : e.num = n
    · simp [he, h]
    · simp [he]

theorem mem_putInto {e x : DirEntry} {l : List DirEntry} (h : x ∈ putInto e l) : x = e ∨ x ∈ l := by
  induction l with
  | nil => exact .inl (by simpa [putInto] using h)
  | cons y ys ih =>
    simp only [putInto] at h
    split at h
    · simpa using h
    · split at h
      · rcases List.mem_cons.mp h with h | h
        · exact .inl h
        · exact .inr (List.mem_cons_of_mem _ h)
      · rcases List.mem_cons.mp h with h | h
        · exact .inr (h ▸ List.mem_cons_self)
        · rcases ih h with h | h
          · exact .inl h
          · exact .inr (List.mem_cons_of_mem _ h)

theorem putInto_rising {e : DirEntry} {l : List DirEntry} (h : l.Pairwise fun a b => a.num < b.num) :
    (putInto e l).Pairwise fun a b => a.num < b.num := by
  induction l with
  | nil => simp [putInto]
  | cons y ys ih =>
    have ⟨h1, h2⟩ := List.pairwise_cons.mp h
    simp only [putInto]
    split
    · next hlt =>
      refine List.pairwise_cons.mpr ⟨fun z hz => ?_, h⟩
      rcases List.mem_cons.mp hz with rfl | hz
      · exact hlt
      · exact BitVec.lt_trans hlt (h1 z hz)
    · split
      · next heq => exact List.pairwise_cons.mpr ⟨fun z hz => by rw [heq]; exact h1 z hz, h2⟩
      · next hn he =>
        refine List.pairwise_cons.mpr ⟨fun z hz => ?_, ih h2⟩
        rcases mem_putInto hz with rfl | hz
        · have he' : ¬ z.num.toNat = y.num.toNat := fun hh => he (BitVec.eq_of_toNat_eq hh)
          have hn' : ¬ z.num.toNat < y.num.toNat := hn
          show y.num.toNat < z.num.toNat
          omega
        · exact h1 z hz

/-- How far an entry put in lengthens the list. -/
theorem length_putInto (e : DirEntry) (l : List DirEntry) (h : l.Pairwise fun a b => a.num < b.num) :
    (putInto e l).length ≤ l.length + (if (l.find? fun x => x.num = e.num).isSome then 0 else 1) := by
  induction l with
  | nil => simp [putInto]
  | cons y ys ih =>
    have ⟨h1, h2⟩ := List.pairwise_cons.mp h
    have := ih h2
    simp only [putInto]
    by_cases hlt : e.num < y.num
    · rw [if_pos hlt]
      have hnone : (y :: ys).find? (fun x => decide (x.num = e.num)) = none := by
        rw [List.find?_eq_none]
        intro z hz
        have hl : e.num.toNat < z.num.toNat := by
          rcases List.mem_cons.mp hz with rfl | hz
          · exact hlt
          · exact Nat.lt_trans hlt (h1 z hz)
        simp only [decide_eq_true_eq]
        intro hh
        rw [hh] at hl
        omega
      rw [hnone]
      simp
    · rw [if_neg hlt]
      by_cases heq : e.num = y.num
      · rw [if_pos heq]
        simp
      · rw [if_neg heq, List.find?_cons]
        simp only [Ne.symm heq, decide_false, List.length_cons]
        omega

end Sys2Proof.Machine
end

