-- ==== Sys2Proof/Laws/Removals.lean ====
section
/-!
SUPPORT. What removals from an egress come to: the references dropped, the entries counted in FLUSHED, and the closing effects entry by
entry.
-/

namespace Sys2Proof.Machine

variable {s : State}

/-! ### References -/

theorem removeStation_store (n : Num) (st : Station) (c : Cause) : (removeStation n st c s).store = s.store := by
  unfold removeStation
  simp only [wakeHome_store]
  split <;> simp [countDir, dropEntry]

theorem reportRelease_store (k : Ticket) : (reportRelease k s).store = s.store := by
  unfold reportRelease
  split
  · unfold releaseSource
    split
    · rfl
    · simp only
      split
      · split
        · rw [removeStation_store]; rfl
        · split <;> simp [putStation]
      · split <;> simp [putStation]
  · rfl

theorem testRecovered_tickets : (testRecovered s).store.tickets = s.store.tickets := by rw [testRecovered_store]

/-- What `j` dropped references leave of a ticket. -/
def Ticket.dropped (j : Nat) (k : Ticket) : Option Ticket :=
  if j = 0 then some k else if k.refs ≤ j then none else some { k with refs := k.refs - j }

theorem Ticket.dropped_dropped (i j : Nat) (k : Ticket) : (k.dropped i).bind (Ticket.dropped j) = k.dropped (i + j) := by
  unfold Ticket.dropped
  by_cases hi : i = 0
  · simp [hi]
  · by_cases hj : j = 0
    · by_cases h : k.refs ≤ i
      · simp [hi, hj, h]
      · simp [hi, hj, h]
    · by_cases h : k.refs ≤ i
      · have : k.refs ≤ i + j := by omega
        simp [hi, h, this]
      · by_cases h1 : k.refs ≤ i + j
        · have : k.refs ≤ j + i := by omega
          simp [hi, hj, h, h1, this]
        · have : ¬ k.refs ≤ j + i := by omega
          simp [hi, hj, h, h1, this, Nat.sub_sub]

theorem bind_dropped_zero (o : Option Ticket) : o.bind (Ticket.dropped 0) = o := by cases o <;> rfl

theorem bind_dropped (i j : Nat) (o : Option Ticket) :
    (o.bind (Ticket.dropped i)).bind (Ticket.dropped j) = o.bind (Ticket.dropped (i + j)) := by
  cases o with
  | none => rfl
  | some k => exact Ticket.dropped_dropped i j k

theorem find_release {m n : Nat} (l : List Ticket) :
    (l.filter fun x => x.num ≠ n).find? (fun x => x.num = m) = if m = n then none else l.find? fun x => x.num = m := by
  induction l with
  | nil => simp
  | cons y ys ih =>
    rw [List.filter_cons]
    by_cases hy : y.num = n
    · rw [if_neg (by simpa using hy), ih, List.find?_cons]
      by_cases hm : m = n
      · rw [if_pos hm, if_pos hm]
      · rw [if_neg hm, if_neg hm, decide_eq_false (by rw [hy]; exact Ne.symm hm)]
    · rw [if_pos (by simpa using hy), List.find?_cons, ih, List.find?_cons]
      by_cases hm : y.num = m
      · have : ¬ m = n := by rw [← hm]; exact hy
        simp [hm, this]
      · rw [decide_eq_false hm]

/-- One reference dropped. -/
theorem dropRef_ticket (n m : Nat) :
    (dropRef n s).ticket m = if m = n then (s.ticket n).bind (Ticket.dropped 1) else s.ticket m := by
  cases h : s.ticket n with
  | none =>
    have : dropRef n s = s := by
      unfold dropRef
      rw [h]
    rw [this]
    split
    · next hm => rw [hm, h]; rfl
    · rfl
  | some k =>
    have hn := ticket_num h
    unfold dropRef
    rw [h]
    simp only [Option.bind_some, Ticket.dropped]
    split
    · next hr =>
      unfold State.ticket
      rw [testRecovered_tickets, reportRelease_store]
      simp only [State.setStore_store, Store.release, hn]
      rw [find_release]
      split <;> simp
    · next hr =>
      rw [ticket_putTicket_of h (by rfl)]
      split <;> simp

theorem setResync_store (t : TrunkId) (n : Num) : (setResync t n s).store = s.store := by
  unfold setResync
  split
  · rfl
  · split <;> rfl

theorem resyncAfter_store (t : TrunkId) (q : QEntry) : (resyncAfter t q s).store = s.store := by
  unfold resyncAfter
  split
  · split
    · exact setResync_store _ _
    · rfl
  · rfl

theorem flushedEntry_ticket (t : TrunkId) (q : QEntry) (n : Nat) :
    (flushedEntry t q s).ticket n = (s.ticket n).bind (Ticket.dropped (namedIn n [q])) := by
  unfold flushedEntry
  rw [dropRef_ticket]
  have h : ∀ m, (resyncAfter t q (countTrunk t (fun c => { c with flushed := countUp c.flushed }) s)).ticket m = s.ticket m :=
    fun m => ticket_congr (by rw [resyncAfter_store]; rfl) m
  rw [h, h]
  by_cases hq : q.ticket = n
  · simp [namedIn, hq]
  · rw [if_neg (Ne.symm hq)]
    simp [namedIn, hq, bind_dropped_zero]

theorem dropRef_ticket_named (q : QEntry) (n : Nat) :
    (dropRef q.ticket s).ticket n = (s.ticket n).bind (Ticket.dropped (namedIn n [q])) := by
  rw [dropRef_ticket]
  by_cases hq : q.ticket = n
  · simp [namedIn, hq]
  · rw [if_neg (Ne.symm hq)]
    simp [namedIn, hq, bind_dropped_zero]

theorem namedIn_cons (n : Nat) (q : QEntry) (l : List QEntry) : namedIn n (q :: l) = namedIn n [q] + namedIn n l := by
  unfold namedIn
  by_cases h : q.ticket = n <;> simp [h, Nat.add_comm]

/-- The effect of each of a list of removals on a ticket, when one removal drops the entry's reference. -/
theorem foldl_ticket {f : State → QEntry → State}
    (hf : ∀ s q n, (f s q).ticket n = (s.ticket n).bind (Ticket.dropped (namedIn n [q]))) (l : List QEntry) (n : Nat) :
    (l.foldl f s).ticket n = (s.ticket n).bind (Ticket.dropped (namedIn n l)) := by
  induction l generalizing s with
  | nil =>
    exact (bind_dropped_zero _).symm
  | cons q qs ih =>
    rw [List.foldl_cons, ih, hf, namedIn_cons n q qs, bind_dropped]

/-! ### FLUSHED -/

theorem countUpBy_add (c : Counter) (a b : Nat) : countUpBy c (a + b) = countUpBy (countUpBy c a) b := by
  induction a generalizing c with
  | zero => simp [countUpBy]
  | succ n ih =>
    rw [Nat.succ_add]
    simp only [countUpBy]
    exact ih _

theorem flushedEntry_flushed (t : TrunkId) (q : QEntry) :
    ((flushedEntry t q s).trunk t).counters.flushed = countUp (s.trunk t).counters.flushed := by
  unfold flushedEntry
  rw [trunk_of_trunks (dropRef_trunks _ _), trunk_of_trunks (resyncAfter_trunks _ _ _)]
  simp [countTrunk]

theorem foldl_flushedEntry_flushed (t : TrunkId) (l : List QEntry) :
    ((l.foldl (fun v q => flushedEntry t q v) s).trunk t).counters.flushed =
      countUpBy (s.trunk t).counters.flushed l.length := by
  induction l generalizing s with
  | nil => rfl
  | cons q qs ih => rw [List.foldl_cons, ih, flushedEntry_flushed]; rfl

theorem setFifo_counters (e : Port) (c : Cls) (q : List QEntry) (t : TrunkId) :
    ((setFifo e c q s).trunk t).counters = (s.trunk t).counters := by
  cases e with
  | host => rfl
  | trunk u =>
    simp only [setFifo, State.modTrunk_trunk]
    split
    · next h => rw [h]
    · rfl

theorem emptyClass_flushed (t : TrunkId) (c : Cls) :
    ((emptyClass t c s).trunk t).counters.flushed =
      countUpBy (s.trunk t).counters.flushed (s.fifo (.trunk t) c).length := by
  unfold emptyClass
  rw [foldl_flushedEntry_flushed, setFifo_counters]

theorem emptyClass_ticket (t : TrunkId) (c : Cls) (n : Nat) :
    (emptyClass t c s).ticket n = (s.ticket n).bind (Ticket.dropped (namedIn n (s.fifo (.trunk t) c))) := by
  unfold emptyClass
  rw [foldl_ticket (fun s q n => flushedEntry_ticket t q n), ticket_congr (setFifo_store _ _ _)]

/-- A mode change that flushes counts every entry of the egress. -/
theorem emptyEgress_flushed (t : TrunkId) :
    ((emptyEgress t s).1.trunk t).counters.flushed = countUpBy (s.trunk t).counters.flushed (s.entries (.trunk t)) := by
  simp only [emptyEgress, emptyClass_flushed, emptyClass_fifo]
  simp only [← countUpBy_add, State.entries]
  congr 1
  simp
  omega

/-- A mode change that flushes drops as many references to a ticket as entries of the egress name it. -/
theorem emptyEgress_ticket (t : TrunkId) (n : Nat) :
    (emptyEgress t s).1.ticket n = (s.ticket n).bind (Ticket.dropped (s.namedAt n (.trunk t))) := by
  simp only [emptyEgress, emptyClass_ticket, emptyClass_fifo]
  simp only [bind_dropped, State.namedAt]
  congr 2
  simp
  omega

/-! ### The closing effects (02 R30) -/

/-- A notice raised depends on the parameters and the link alone. -/
theorem raise_link_congr (f : NoticeFields) {s u : State} (hp : u.params = s.params) (hl : u.link = s.link) :
    (raise f u).link = (raise f s).link := by
  unfold raise
  rw [hp, hl]
  split
  · split
    · simp [countLink, hl]
    · simp [hl]
  · exact hl

theorem foldl_raise_link_congr (l : List NoticeFields) {s u : State} (hp : u.params = s.params) (hl : u.link = s.link) :
    (l.foldl (fun v f => raise f v) u).link = (l.foldl (fun v f => raise f v) s).link := by
  induction l generalizing s u with
  | nil => exact hl
  | cons f fs ih =>
    rw [List.foldl_cons, List.foldl_cons]
    exact ih (by simp [hp]) (raise_link_congr f hp hl)

/-- What the closing of a trunk leaves of an entry. -/
def DirEntry.closed (t : TrunkId) (e : DirEntry) : Option DirEntry :=
  match e.body with
  | .group _ => some e
  | .station st =>
    if st.home = some t then
      match st.kind with
      | .dynamic _ _ _ =>
        if st.held = 0 then none else some ⟨e.num, .station { st with kind := .dynamic none false (some .closed) }⟩
      | .pinned _ _ _ => some ⟨e.num, .station { st with missed := 3, state := .silent }⟩
    else some e

/-- The notice that the closing of a trunk raises for an entry. -/
def DirEntry.closingNotice (t : TrunkId) (e : DirEntry) : Option NoticeFields :=
  match e.body with
  | .group _ => none
  | .station st =>
    if st.home = some t then
      match st.kind with
      | .dynamic _ _ _ => if st.held = 0 then some (.gone e.num .closed) else none
      | .pinned _ _ _ => if st.state = .active then some (.station e.num .silent) else none
    else none

theorem entry_setLink (l : HostLink) (n : Num) : (s.setLink l).entry n = s.entry n := rfl

theorem raise_entry (f : NoticeFields) (n : Num) : (raise f s).entry n = s.entry n := by
  unfold State.entry
  rw [raise_dir]

theorem entry_num {n : Num} {e : DirEntry} (h : s.entry n = some e) : e.num = n := by
  have := List.find?_some h
  simpa using this

theorem closeEntry_entry {t : TrunkId} {n : Num} {e : DirEntry} (h : s.entry n = some e) (m : Num) :
    (closeEntry t n s).entry m = if m = n then e.closed t else s.entry m := by
  have hn := entry_num h
  obtain ⟨num, body⟩ := e
  subst hn
  cases body with
  | group g =>
    have : s.station num = none := by simp [State.station, h]
    simp only [closeEntry, this, DirEntry.closed]
    split
    · next hm => rw [hm, h]
    · rfl
  | station st =>
    have : s.station num = some st := by simp [State.station, h]
    simp only [closeEntry, this, DirEntry.closed]
    split
    · next hh =>
      cases hk : st.kind with
      | dynamic a b c =>
        simp only
        by_cases h0 : st.held = 0
        · rw [if_pos h0, if_pos h0, raise_entry, entry_dropEntry]
        · rw [if_neg h0, if_neg h0, entry_putStation]
      | pinned a b c =>
        simp only
        have he : ∀ v, (if st.state = .active then raise (.station num .silent) v else v).entry m = v.entry m := by
          intro v
          split
          · exact raise_entry _ _
          · rfl
        rw [he, entry_putStation]
        rfl
    · split
      · next hm => rw [hm, h]
      · rfl

theorem closeEntry_link {t : TrunkId} {n : Num} {e : DirEntry} (h : s.entry n = some e) :
    (closeEntry t n s).link = ((e.closingNotice t).toList.foldl (fun v f => raise f v) s).link := by
  have hn := entry_num h
  obtain ⟨num, body⟩ := e
  subst hn
  cases body with
  | group g =>
    have : s.station num = none := by simp [State.station, h]
    simp [closeEntry, this, DirEntry.closingNotice]
  | station st =>
    have : s.station num = some st := by simp [State.station, h]
    simp only [closeEntry, this, DirEntry.closingNotice]
    split
    · cases hk : st.kind with
      | dynamic a b c =>
        simp only
        by_cases h0 : st.held = 0
        · rw [if_pos h0, if_pos h0]
          exact raise_link_congr _ rfl rfl
        · rw [if_neg h0, if_neg h0]
          rfl
      | pinned a b c =>
        simp only
        by_cases h0 : st.state = .active
        · rw [if_pos h0, if_pos h0]
          exact raise_link_congr _ rfl rfl
        · rw [if_neg h0, if_neg h0]
          rfl
    · rfl

theorem foldl_closeEntry {t : TrunkId} {l : List DirEntry} (hl : l.Pairwise fun a b => a.num < b.num)
    (h : ∀ e ∈ l, s.entry e.num = some e) :
    (∀ n, ((l.map DirEntry.num).foldl (fun v n => closeEntry t n v) s).entry n =
      (s.entry n).bind fun e => if e ∈ l then e.closed t else some e) ∧
      ((l.map DirEntry.num).foldl (fun v n => closeEntry t n v) s).link =
        ((l.filterMap (DirEntry.closingNotice t)).foldl (fun v f => raise f v) s).link := by
  induction l generalizing s with
  | nil =>
    refine ⟨fun n => ?_, rfl⟩
    simp only [List.map_nil, List.foldl_nil]
    cases s.entry n <;> simp
  | cons x xs ih =>
    obtain ⟨h1, h2⟩ := List.pairwise_cons.mp hl
    have hx := h x List.mem_cons_self
    have hne : ∀ e ∈ xs, e.num ≠ x.num := fun e he hq => BitVec.lt_irrefl _ (hq ▸ h1 e he)
    obtain ⟨ih1, ih2⟩ := ih (s := closeEntry t x.num s) h2 fun e he => by
      rw [closeEntry_entry hx, if_neg (hne e he)]
      exact h e (List.mem_cons_of_mem _ he)
    rw [List.map_cons, List.foldl_cons]
    refine ⟨fun n => ?_, ?_⟩
    · rw [ih1, closeEntry_entry hx]
      by_cases hn : n = x.num
      · subst hn
        rw [if_pos rfl, hx, Option.bind_some, if_pos List.mem_cons_self]
        cases hc : x.closed t with
        | none => rfl
        | some y =>
          rw [Option.bind_some, if_neg]
          intro hy
          refine hne y hy ?_
          unfold DirEntry.closed at hc
          (repeat' split at hc) <;> cases hc <;> rfl
      · rw [if_neg hn]
        cases he : s.entry n with
        | none => rfl
        | some e =>
          have : e ≠ x := fun hx => hn (by rw [← entry_num he, hx])
          simp [this]
    · rw [ih2, List.filterMap_cons]
      cases hc : x.closingNotice t with
      | none =>
        refine foldl_raise_link_congr _ ?_ ?_
        · exact (closeEntry_services _ _ _).params
        · rw [closeEntry_link hx, hc]; rfl
      | some f =>
        rw [List.foldl_cons]
        refine foldl_raise_link_congr _ ?_ ?_
        · rw [(closeEntry_services _ _ _).params, raise_params]
        · rw [closeEntry_link hx, hc]; rfl

theorem find_of_rising {l : List DirEntry} (hl : l.Pairwise fun a b => a.num < b.num) {e : DirEntry} (h : e ∈ l) :
    l.find? (fun x => x.num = e.num) = some e := by
  induction l with
  | nil => cases h
  | cons x xs ih =>
    obtain ⟨h1, h2⟩ := List.pairwise_cons.mp hl
    rw [List.find?_cons]
    rcases List.mem_cons.mp h with rfl | h
    · simp
    · rw [decide_eq_false fun hq => BitVec.lt_irrefl _ (hq ▸ h1 e h)]
      exact ih h2 h

/-- The closing effects treat each entry as its fields ask, and raise their notices in ascending number. -/
theorem closingEffects_spec (t : TrunkId) (hl : s.dir.Pairwise fun a b => a.num < b.num) :
    (∀ n, (closingEffects t s).entry n = (s.entry n).bind (DirEntry.closed t)) ∧
      (closingEffects t s).link =
        ((s.dir.filterMap (DirEntry.closingNotice t)).foldl (fun v f => raise f v) s).link := by
  obtain ⟨h1, h2⟩ := foldl_closeEntry (s := s) (t := t) hl fun e he => find_of_rising hl he
  refine ⟨fun n => ?_, h2⟩
  unfold closingEffects
  rw [h1]
  cases he : s.entry n with
  | none => rfl
  | some e => rw [Option.bind_some, Option.bind_some, if_pos (List.mem_of_find?_eq_some he)]

theorem closeEntry_store (t : TrunkId) (n : Num) : (closeEntry t n s).store = s.store := by
  unfold closeEntry
  split
  · rfl
  · split
    · split
      · split <;> simp [dropEntry, putStation]
      · simp only
        split <;> simp [putStation]
    · rfl

theorem closeEntry_hostEgress (t : TrunkId) (n : Num) : (closeEntry t n s).hostEgress = s.hostEgress := by
  unfold closeEntry
  split
  · rfl
  · split
    · split
      · split <;> simp
      · simp only
        split <;> simp
    · rfl

theorem closingEffects_store (t : TrunkId) : (closingEffects t s).store = s.store := by
  unfold closingEffects
  generalize s.dir.map DirEntry.num = l
  induction l generalizing s with
  | nil => rfl
  | cons x xs ih => rw [List.foldl_cons, ih, closeEntry_store]

theorem closingEffects_hostEgress (t : TrunkId) : (closingEffects t s).hostEgress = s.hostEgress := by
  unfold closingEffects
  generalize s.dir.map DirEntry.num = l
  induction l generalizing s with
  | nil => rfl
  | cons x xs ih => rw [List.foldl_cons, ih, closeEntry_hostEgress]

end Sys2Proof.Machine
end

