-- ==== Sys2Proof/Laws/Aging.lean ====
section
/-!
SUPPORT. What the aging scan comes to, entry by entry: the entries it leaves, the notices it raises, the count in AGED, and the controllers it
wakes.
-/

namespace Sys2Proof.Machine

variable {s : State}

/-- Whether the scan removes an entry (02 R23). -/
def DirEntry.ages (e : DirEntry) : Bool :=
  match e.body with
  | .group _ => false
  | .station st =>
    match st.kind with
    | .pinned _ _ _ => false
    | .dynamic _ seen _ => !seen && decide (st.held = 0)

/-- What the scan leaves of an entry (02 R23). -/
def DirEntry.scanned (e : DirEntry) : Option DirEntry :=
  match e.body with
  | .group _ => some e
  | .station st =>
    match st.kind with
    | .pinned _ _ _ => some e
    | .dynamic home seen due =>
      if seen then some ⟨e.num, .station { st with kind := .dynamic home false due }⟩
      else if st.held = 0 then none
      else if due = none then some ⟨e.num, .station { st with kind := .dynamic home false (some .aged) }⟩
      else some e

/-- Whether an entry is a station's that has its home on trunk `t`. -/
def DirEntry.homedOn (t : TrunkId) (e : DirEntry) : Bool :=
  match e.body with
  | .group _ => false
  | .station st => st.home = some t

/-- What a wake of a home's controller does to the marks. -/
theorem wakeHome_wakes_get (h : Option TrunkId) (t : TrunkId) :
    (wakeHome h s).wakes.get t = (s.wakes.get t || ((s.trunk t).activity = .idle && decide (h = some t))) := by
  cases h with
  | none => simp [wakeHome]
  | some u =>
    simp only [wakeHome, wake]
    by_cases ha : (s.trunk u).activity = .idle
    · rw [if_pos ha]
      show (s.wakes.set u true).get t = _
      rw [Quad.get_set]
      by_cases hu : t = u
      · subst hu; simp [ha]
      · rw [if_neg hu, decide_eq_false fun h => hu (Option.some.inj h).symm]; simp
    · rw [if_neg ha]
      by_cases hu : u = t
      · subst hu; simp [ha]
      · simp [hu]

/-- The scan's treatment of one entry. -/
theorem scanEntry_spec {n : Num} {e : DirEntry} (h : s.entry n = some e) :
    (∀ m, (scanEntry n s).entry m = if m = n then e.scanned else s.entry m) ∧
      (scanEntry n s).link = (if e.ages then raise (.gone n .aged) s else s).link ∧
      (scanEntry n s).dirCounters =
        { s.dirCounters with aged := if e.ages then countUp s.dirCounters.aged else s.dirCounters.aged } ∧
      (∀ t, (scanEntry n s).wakes.get t =
        (s.wakes.get t || ((s.trunk t).activity = .idle && (e.ages && e.homedOn t)))) ∧
      (scanEntry n s).trunks = s.trunks := by
  have hn := entry_num h
  obtain ⟨num, body⟩ := e
  subst hn
  have same : ∀ m, s.entry m = if m = num then some ⟨num, body⟩ else s.entry m := fun m => by
    split
    · next hm => rw [hm, h]
    · rfl
  cases body with
  | group g =>
    have hs : s.station num = none := by simp [State.station, h]
    simpa [scanEntry, hs, DirEntry.scanned, DirEntry.ages] using same
  | station st =>
    have hs : s.station num = some st := by simp [State.station, h]
    cases hk : st.kind with
    | pinned a b c => simpa [scanEntry, hs, hk, DirEntry.scanned, DirEntry.ages] using same
    | dynamic home seen due =>
      have hh : st.home = home := by simp [Station.home, hk, StationKind.home]
      cases seen with
      | true =>
        simp only [scanEntry, hs, hk, DirEntry.scanned, DirEntry.ages, if_true]
        exact ⟨fun m => entry_putStation .., rfl, rfl, fun t => by simp [putStation], rfl⟩
      | false =>
        by_cases h0 : st.held = 0
        · have e1 : scanEntry num s = wakeHome home (countDir (fun c => { c with aged := countUp c.aged })
              (raise (.gone num .aged) (dropEntry num s))) := by
            simp [scanEntry, hs, hk, h0, removeStation, hh]
          have e2 : DirEntry.ages ⟨num, .station st⟩ = true := by simp [DirEntry.ages, hk, h0]
          rw [e1, e2]
          refine ⟨fun m => ?_, ?_, ?_, fun t => ?_, ?_⟩
          · have : DirEntry.scanned ⟨num, .station st⟩ = none := by simp [DirEntry.scanned, hk, h0]
            rw [this, State.entry, wakeHome_dir]
            exact (raise_entry _ m).trans (entry_dropEntry s num m)
          · rw [wakeHome_link]
            exact raise_link_congr _ rfl rfl
          · simp [countDir, dropEntry]
          · rw [wakeHome_wakes_get]
            simp [countDir, dropEntry, State.trunk, DirEntry.homedOn, hh]
            congr
          · simp [countDir, dropEntry]
        · by_cases hd : due = none
          · simp only [scanEntry, hs, hk, DirEntry.scanned, DirEntry.ages, if_neg h0, hd]
            exact ⟨fun m => by simpa using entry_putStation .., by simp [h0, putStation], by simp [h0, putStation],
              fun t => by simp [h0, putStation], rfl⟩
          · simpa [scanEntry, hs, hk, DirEntry.scanned, DirEntry.ages, h0, hd] using same

theorem scanned_num {e x : DirEntry} (h : e.scanned = some x) : x.num = e.num := by
  unfold DirEntry.scanned at h
  (repeat' split at h) <;> cases h <;> rfl

theorem foldl_scanEntry {l : List DirEntry} (hl : l.Pairwise fun a b => a.num < b.num)
    (h : ∀ e ∈ l, s.entry e.num = some e) :
    let u := (l.map DirEntry.num).foldl (fun v n => scanEntry n v) s
    (∀ n, u.entry n = (s.entry n).bind fun e => if e ∈ l then e.scanned else some e) ∧
      u.link = ((l.filter DirEntry.ages).foldl (fun v e => raise (.gone e.num .aged) v) s).link ∧
      u.dirCounters = { s.dirCounters with aged := countUpBy s.dirCounters.aged (l.filter DirEntry.ages).length } ∧
      (∀ t, u.wakes.get t =
        (s.wakes.get t || ((s.trunk t).activity = .idle && (l.filter DirEntry.ages).any (DirEntry.homedOn t)))) ∧
      u.trunks = s.trunks := by
  induction l generalizing s with
  | nil =>
    refine ⟨fun n => ?_, rfl, rfl, fun t => by simp, rfl⟩
    simp only [List.map_nil, List.foldl_nil]
    cases s.entry n <;> simp
  | cons x xs ih =>
    obtain ⟨h1, h2⟩ := List.pairwise_cons.mp hl
    have hx := h x List.mem_cons_self
    have hne : ∀ e ∈ xs, e.num ≠ x.num := fun e he hq => BitVec.lt_irrefl _ (hq ▸ h1 e he)
    obtain ⟨x1, x2, x3, x4, x5⟩ := scanEntry_spec hx
    have hp : (scanEntry x.num s).params = s.params := (scanEntry_services _ _).params
    obtain ⟨i1, i2, i3, i4, i5⟩ := ih (s := scanEntry x.num s) h2 fun e he => by
      rw [x1, if_neg (hne e he)]
      exact h e (List.mem_cons_of_mem _ he)
    rw [List.map_cons, List.foldl_cons]
    refine ⟨fun n => ?_, ?_, ?_, fun t => ?_, i5.trans x5⟩
    · rw [i1, x1]
      by_cases hn : n = x.num
      · subst hn
        rw [if_pos rfl, hx, Option.bind_some, if_pos List.mem_cons_self]
        cases hc : x.scanned with
        | none => rfl
        | some y =>
          rw [Option.bind_some, if_neg]
          exact fun hy => hne y hy (scanned_num hc)
      · rw [if_neg hn]
        cases he : s.entry n with
        | none => rfl
        | some e =>
          have : e ≠ x := fun hx => hn (by rw [← entry_num he, hx])
          simp [this]
    · rw [i2, ← List.foldl_map (f := fun e : DirEntry => NoticeFields.gone e.num .aged) (g := fun v f => raise f v),
        ← List.foldl_map (f := fun e : DirEntry => NoticeFields.gone e.num .aged) (g := fun v f => raise f v)]
      cases ha : x.ages with
      | false =>
        rw [List.filter_cons_of_neg (by simp [ha])]
        exact foldl_raise_link_congr _ hp (by rw [x2, ha]; rfl)
      | true =>
        rw [List.filter_cons_of_pos ha, List.map_cons, List.foldl_cons]
        exact foldl_raise_link_congr _ (by rw [hp, raise_params]) (by rw [x2, ha]; rfl)
    · rw [i3, x3]
      cases ha : x.ages with
      | false => rw [List.filter_cons_of_neg (by simp [ha])]; rfl
      | true => rw [List.filter_cons_of_pos ha]; rfl
    · rw [i4, x4]
      have ht : ((scanEntry x.num s).trunk t) = s.trunk t := by unfold State.trunk; rw [x5]
      rw [ht]
      cases ha : x.ages with
      | false => rw [List.filter_cons_of_neg (by simp [ha])]; simp
      | true =>
        rw [List.filter_cons_of_pos ha, List.any_cons]
        cases s.wakes.get t <;> cases decide ((s.trunk t).activity = .idle) <;> simp

/-- The scan treats each entry as its fields ask, and raises, counts and wakes for those it removes, in ascending number. -/
theorem agingScan_spec (hl : s.dir.Pairwise fun a b => a.num < b.num) :
    (∀ n, (agingScan s).entry n = (s.entry n).bind DirEntry.scanned) ∧
      (agingScan s).link = ((s.dir.filter DirEntry.ages).foldl (fun v e => raise (.gone e.num .aged) v) s).link ∧
      (agingScan s).dirCounters =
        { s.dirCounters with aged := countUpBy s.dirCounters.aged (s.dir.filter DirEntry.ages).length } ∧
      (∀ t, (agingScan s).wakes.get t =
        (s.wakes.get t || ((s.trunk t).activity = .idle && (s.dir.filter DirEntry.ages).any (DirEntry.homedOn t)))) ∧
      (agingScan s).trunks = s.trunks := by
  obtain ⟨h1, h⟩ := foldl_scanEntry (s := s) hl fun e he => find_of_rising hl he
  refine ⟨fun n => ?_, h⟩
  unfold agingScan
  rw [h1]
  cases he : s.entry n with
  | none => rfl
  | some e => rw [Option.bind_some, Option.bind_some, if_pos (List.mem_of_find?_eq_some he)]

end Sys2Proof.Machine
end

