-- ==== Sys2Proof/Laws/Decisions.lean ====
section
/-!
SUPPORT. The work decision: what the search of the ring finds, what a pick leaves of an egress, and that a decision's passes are enough.
-/

namespace Sys2Proof.Machine

variable {s : State}

/-! ### The search of the ring -/

/-- The search passes over the stations it does not serve and counts the withheld ones before the first eligible one. -/
theorem searchRing_found {c : Fin 8} {before after : List (Num × Station)} {n : Num} {st : Station}
    (h : ∀ y ∈ before, y.2.servedIn c = true → s.capOf y.2 ≤ y.2.held) (h1 : st.servedIn c = true)
    (h2 : ¬s.capOf st ≤ st.held) :
    searchRing s c (before ++ (n, st) :: after) = ((before.filter fun y => y.2.servedIn c).length, some n) := by
  induction before with
  | nil =>
    have : s.belowCap st = true := decide_eq_true (by omega)
    simp [searchRing, h1, this]
  | cons y ys ih =>
    have ih := ih fun z hz => h z (List.mem_cons_of_mem _ hz)
    simp only [List.cons_append, searchRing]
    by_cases hs : y.2.servedIn c = true
    · have hb : s.belowCap y.2 = false := decide_eq_false (by have := h y List.mem_cons_self hs; omega)
      rw [if_pos hs, hb, ih]
      simp [hs]
    · rw [if_neg hs, ih]
      simp [hs]

/-- The search of a ring without an eligible station counts its withheld ones. -/
theorem searchRing_none {c : Fin 8} {l : List (Num × Station)}
    (h : ∀ y ∈ l, y.2.servedIn c = true → s.capOf y.2 ≤ y.2.held) :
    searchRing s c l = ((l.filter fun y => y.2.servedIn c).length, none) := by
  induction l with
  | nil => rfl
  | cons y ys ih =>
    have ih := ih fun z hz => h z (List.mem_cons_of_mem _ hz)
    simp only [searchRing]
    by_cases hs : y.2.servedIn c = true
    · have hb : s.belowCap y.2 = false := decide_eq_false (by have := h y List.mem_cons_self hs; omega)
      rw [if_pos hs, hb, ih]
      simp [hs]
    · rw [if_neg hs, ih]
      simp [hs]

/-- A search that finds nothing has passed over full stations only. -/
theorem searchRing_snd_none {c : Fin 8} {l : List (Num × Station)} (h : (searchRing s c l).2 = none) :
    ∀ y ∈ l, y.2.servedIn c = true → s.belowCap y.2 = false := by
  induction l with
  | nil => simp
  | cons x xs ih =>
    intro y hy hs
    simp only [searchRing] at h
    by_cases hx : x.2.servedIn c = true
    · rw [if_pos hx] at h
      by_cases hb : s.belowCap x.2 = true
      · simp [hb] at h
      · rw [if_neg hb] at h
        rcases List.mem_cons.mp hy with rfl | hy
        · simpa using hb
        · exact ih h y hy hs
    · rw [if_neg hx] at h
      rcases List.mem_cons.mp hy with rfl | hy
      · exact absurd hs hx
      · exact ih h y hy hs

/-! ### Picks at a trunk's egress -/

theorem chooseClass_fifo (t : TrunkId) (e : Port) (c : Cls) : (chooseClass t s).1.fifo e c = s.fifo e c := by
  unfold chooseClass
  split
  · rfl
  · split
    · rfl
    · exact fifo_modTrunk _ rfl _ _

theorem giveUp_fifo (t : TrunkId) (c : Cls) (q : QEntry) (r : Undelivered) (e : Port) (k : Cls) :
    (giveUp t c q r s).fifo e k = (popHead (.trunk t) c s).fifo e k := by
  unfold giveUp
  simp only [dropRef_fifo, raiseUndelivered_fifo]
  split
  · rw [fifo_of_trunks (resyncAfter_trunks _ _ _) (resyncAfter_hostEgress _ _ _)]
    exact fifo_modTrunk _ rfl _ _
  · exact fifo_modTrunk _ rfl _ _

theorem entries_giveUp {t : TrunkId} {c : Cls} {q : QEntry} {qs : List QEntry} {r : Undelivered}
    (h : s.fifo (.trunk t) c = q :: qs) : (giveUp t c q r s).entries (.trunk t) + 1 = s.entries (.trunk t) := by
  rw [← entries_setFifo_tail h]
  congr 1
  refine entries_congr fun k => ?_
  rw [giveUp_fifo, popHead, h, List.tail_cons]

theorem entries_reroute {t u : TrunkId} {c : Cls} {q : QEntry} {qs : List QEntry} (hu : u ≠ t)
    (h : s.fifo (.trunk t) c = q :: qs) : (reroute t c q u s).entries (.trunk t) + 1 = s.entries (.trunk t) := by
  rw [← entries_setFifo_tail h]
  congr 1
  refine entries_congr fun k => ?_
  have hr : ∀ v : State,
      (countTrunk t (fun k => { k with rerouted := countUp k.rerouted }) v).fifo (.trunk t) k = v.fifo (.trunk t) k :=
    fun v => fifo_modTrunk _ rfl _ _
  unfold reroute
  rw [appendEntry_fifo, if_neg (by simp [Ne.symm hu]), hr, popHead, h, List.tail_cons]

theorem chooseClass_none {u : State} (h : chooseClass t s = (u, none)) (c : Cls) : s.fifo (.trunk t) c = [] := by
  unfold chooseClass at h
  split at h
  · simp at h
  · split at h
    · next hl =>
      by_contra hc
      have hm : c ∈ s.activeClasses t := by
        simp only [State.activeClasses, List.mem_filter, decide_eq_true_eq]
        exact ⟨by match c with | 0 | 1 | 2 | 3 => simp, hc⟩
      have hne : ∀ l : List Cls, largest (s.addedBalances t) l = none → l = [] := by
        intro l hl
        cases l with
        | nil => rfl
        | cons x xs =>
          simp only [largest] at hl
          split at hl
          · cases hl
          · split at hl <;> cases hl
      rw [hne _ hl] at hm
      cases hm
    · simp at h

theorem largest_mem {b : Quad Int} {l : List Cls} {c : Cls} (h : largest b l = some c) : c ∈ l := by
  induction l generalizing c with
  | nil => cases h
  | cons x xs ih =>
    simp only [largest] at h
    split at h
    · cases h; exact List.mem_cons_self
    · next d hd =>
      split at h
      · cases h; exact List.mem_cons_of_mem _ (ih hd)
      · cases h; exact List.mem_cons_self

/-- The class chosen holds an entry. -/
theorem chooseClass_some {t : TrunkId} {u : State} {c : Cls} (h : chooseClass t s = (u, some c)) :
    s.fifo (.trunk t) c ≠ [] := by
  unfold chooseClass at h
  split at h
  · next hx => cases h; exact hx.2
  · split at h
    · cases h
    · next d hd =>
      cases h
      have := largest_mem hd
      simp only [State.activeClasses, List.mem_filter, decide_eq_true_eq] at this
      exact this.2

theorem pickWithin_none {fuel : Nat} {t : TrunkId} {s u : State} (hn : s.entries (.trunk t) < fuel)
    (h : pickWithin fuel t s = (u, none)) (c : Cls) : u.fifo (.trunk t) c = [] := by
  induction fuel generalizing s with
  | zero => omega
  | succ n ih =>
    have hf := fun k => chooseClass_fifo (s := s) t (.trunk t) k
    unfold pickWithin at h
    split at h
    · next v hc =>
      cases h
      have := chooseClass_none hc c
      rw [hc] at hf
      rw [hf, this]
    · next v d hc =>
      have hd := chooseClass_some hc
      rw [hc] at hf
      have he : v.entries (.trunk t) = s.entries (.trunk t) := entries_congr hf
      split at h
      · next hq => exact absurd ((hf d).symm.trans hq) hd
      · next q qs hq =>
        split at h
        · cases h
        · have := entries_giveUp (r := ‹_›) hq
          exact ih (by omega) h
        · next w hw =>
          have hne : w ≠ t := (headCheck_reroute _ hw).1
          have := entries_reroute hne hq
          exact ih (by omega) h

/-- A pick that yields nothing leaves the egress empty. -/
theorem pickTrunk_none {t : TrunkId} {u : State} (h : pickTrunk t s = (u, none)) (c : Cls) : u.fifo (.trunk t) c = [] :=
  pickWithin_none (Nat.lt_succ_self _) h c

/-- A pick at an empty egress changes nothing. -/
theorem pickTrunk_empty {t : TrunkId} (h : ∀ c, s.fifo (.trunk t) c = []) : pickTrunk t s = (s, none) := by
  have hc : chooseClass t s = (s, none) := by
    unfold chooseClass
    rw [if_neg fun hx => hx.2 (h 3)]
    have : s.activeClasses t = [] := by simp [State.activeClasses, h]
    rw [this]
    rfl
  unfold pickTrunk pickWithin
  rw [hc]

/-- What a controller is doing: its activity and its transaction. -/
def Trunk.doing (k : Trunk) : Activity × Option Txn := (k.activity, k.txn)

theorem modTrunk_doing (t u : TrunkId) (f : Trunk → Trunk) (h : (f (s.trunk t)).doing = (s.trunk t).doing) :
    ((s.modTrunk t f).trunk u).doing = (s.trunk u).doing := by
  rw [State.modTrunk_trunk]
  split
  · next hu => rw [h, hu]
  · rfl

theorem setFifo_doing (e : Port) (c : Cls) (q : List QEntry) (u : TrunkId) :
    ((setFifo e c q s).trunk u).doing = (s.trunk u).doing := by
  cases e with
  | host => rfl
  | trunk t => exact modTrunk_doing _ _ _ rfl

theorem giveUp_doing (t : TrunkId) (c : Cls) (q : QEntry) (r : Undelivered) (u : TrunkId) :
    ((giveUp t c q r s).trunk u).doing = (s.trunk u).doing := by
  have hu : ∀ v : State, (raiseUndelivered (.trunk t) q r v).trunks = v.trunks := by
    intro v
    unfold raiseUndelivered
    split
    · exact raise_trunks _ _
    · rfl
  have h : ((countGivenUp t r (popHead (.trunk t) c s)).trunk u).doing = (s.trunk u).doing :=
    (modTrunk_doing _ _ _ rfl).trans (setFifo_doing _ _ _ _)
  unfold giveUp
  rw [trunk_of_trunks (dropRef_trunks _ _), trunk_of_trunks (hu _)]
  split
  · rw [trunk_of_trunks (resyncAfter_trunks _ _ _)]
    exact h
  · exact h

theorem reroute_doing (t : TrunkId) (c : Cls) (q : QEntry) (w u : TrunkId) :
    ((reroute t c q w s).trunk u).doing = (s.trunk u).doing := by
  unfold reroute appendEntry wakePort
  rw [wake_trunk, setFifo_doing]
  exact (modTrunk_doing _ _ _ rfl).trans (setFifo_doing _ _ _ _)

theorem chooseClass_doing (t u : TrunkId) : ((chooseClass t s).1.trunk u).doing = (s.trunk u).doing := by
  unfold chooseClass
  split
  · rfl
  · split
    · rfl
    · exact modTrunk_doing _ _ _ rfl

theorem pickWithin_doing (fuel : Nat) (t u : TrunkId) : ((pickWithin fuel t s).1.trunk u).doing = (s.trunk u).doing := by
  induction fuel generalizing s with
  | zero => rfl
  | succ n ih =>
    have h := chooseClass_doing (s := s) t u
    unfold pickWithin
    split
    · next hc => rw [hc] at h; exact h
    · next hc =>
      rw [hc] at h
      split
      · exact h
      · split
        · exact h
        · rw [ih, giveUp_doing]; exact h
        · rw [ih, reroute_doing]; exact h

/-- A pick changes no controller's activity or transaction. -/
theorem pickTrunk_doing (t u : TrunkId) : ((pickTrunk t s).1.trunk u).doing = (s.trunk u).doing := pickWithin_doing _ _ _

/-! ### The passes of a decision -/

/-- A pass that asks for another, at an empty egress: only the cycle has ended. -/
theorem decideOnce_again {t : TrunkId} {u : State} (hf : ∀ c, s.fifo (.trunk t) c = []) (h : decideOnce t s = (u, true)) :
    (∀ c, u.fifo (.trunk t) c = []) ∧ (u.trunk t).cycle = (s.trunk t).cycle + 1 ∧ (u.trunk t).cycle ≠ 0 := by
  have hc : decideCycle t s = (u, true) := by
    unfold decideOnce at h
    rw [pickTrunk_empty hf] at h
    split at h <;> exact h
  unfold decideCycle at hc
  split at hc
  · cases hc
  · split at hc
    · cases hc
    · next p hp =>
      generalize he : endCycle t p s = e at hc
      have hfe : ∀ c, e.fifo (.trunk t) c = [] := by
        intro c
        rw [← he, ← hf c]
        unfold endCycle countWithheld countTrunk
        exact (fifo_modTrunk _ rfl _ _).trans (fifo_modTrunk _ rfl _ _)
      have hcy : (e.trunk t).cycle = (s.trunk t).cycle + 1 := by
        rw [← he]
        simp [endCycle, countWithheld, countTrunk]
      unfold decideFromStart at hc
      split at hc
      · cases hc
      · split at hc
        · cases hc
        · next q hq =>
          unfold decideLast at hc
          rw [pickTrunk_empty hfe] at hc
          simp only at hc
          split at hc
          · next hw =>
            cases hc
            refine ⟨hfe, hcy, fun h0 => ?_⟩
            simp only [State.silentWaits, List.any_eq_true, Bool.and_eq_true] at hw
            obtain ⟨y, hy, _, hb⟩ := hw
            have := searchRing_snd_none (by rw [hq]) y hy (by simp [Station.servedIn, h0])
            rw [this] at hb
            cases hb
          · cases hc

/-- At an empty egress a decision ends before its passes run out: one more changes nothing. -/
theorem decideWithin_more {n : Nat} {t : TrunkId} (hf : ∀ c, s.fifo (.trunk t) c = [])
    (hn : 8 - (s.trunk t).cycle.val ≤ n) : decideWithin (n + 1) t s = decideWithin n t s := by
  induction n generalizing s with
  | zero => omega
  | succ n ih =>
    rw [decideWithin, decideWithin]
    split
    · next u hu =>
      obtain ⟨h1, h2, h3⟩ := decideOnce_again hf hu
      refine ih h1 ?_
      have : (u.trunk t).cycle.val = (s.trunk t).cycle.val + 1 := by
        rw [h2] at h3 ⊢
        generalize (s.trunk t).cycle = c at h3
        revert c
        decide
      omega
    · rfl

end Sys2Proof.Machine
end

