-- ==== Sys2Proof/Laws/Lines.lean ====
section
/-!
SUPPORT. The bits of a character, the characters that bits spell, and the commands that the bits of frames and messages spell.
-/

namespace Sys2Proof.Machine

/-- The ten bits of a character, written out. -/
theorem charBits_eq (c : Byte) : charBits c =
    [.start, .data (c.getLsbD 0), .data (c.getLsbD 1), .data (c.getLsbD 2), .data (c.getLsbD 3), .data (c.getLsbD 4),
      .data (c.getLsbD 5), .data (c.getLsbD 6), .data (c.getLsbD 7), .stop] := rfl

/-- A byte is the byte of its bits. -/
theorem byteOfBits_bits (c : Byte) :
    byteOfBits [c.getLsbD 0, c.getLsbD 1, c.getLsbD 2, c.getLsbD 3, c.getLsbD 4, c.getLsbD 5, c.getLsbD 6,
      c.getLsbD 7] = c := by
  revert c; decide +kernel

/-- Reading takes one character's bits as that character and goes on. -/
theorem charsOfBits_charBits (c : Byte) (bs : List LineBit) :
    charsOfBits none (charBits c ++ bs) = (charsOfBits none bs).map (c :: ·) := by
  simp only [charBits_eq, List.cons_append, List.nil_append, charsOfBits, List.length_cons, List.length_nil, Nat.reduceAdd,
    if_true, byteOfBits_bits]

/-- The bits of some characters are read as those characters. -/
@[simp] theorem charsOfBits_lineBits (cs : List Byte) : charsOfBits none (lineBits cs) = some cs := by
  induction cs with
  | nil => rfl
  | cons c cs ih => exact (charsOfBits_charBits c (lineBits cs)).trans (by rw [ih]; rfl)

/-- The bits of characters one after the other. -/
@[simp] theorem lineBits_append (as bs : List Byte) : lineBits (as ++ bs) = lineBits as ++ lineBits bs :=
  List.flatMap_append

/-- Ten bits a character. -/
@[simp] theorem lineBits_length (cs : List Byte) : (lineBits cs).length = 10 * cs.length := by
  induction cs with
  | nil => rfl
  | cons c cs ih => simp only [lineBits, List.flatMap_cons, charBits_eq, List.length_append, List.length_cons,
      List.length_nil] at *; omega

/-- A message's bits, and those of what follows, are read as its characters are. -/
theorem decodeHostBits_bits (m : Message) (rest : List Byte) :
    decodeHostBits (m.bits ++ lineBits rest) = decodeHost (m.chars ++ rest) := by
  rw [decodeHostBits, Message.bits, ← lineBits_append, charsOfBits_lineBits]; rfl

/-- A frame's bits are read as its characters are. -/
theorem decodeFrameBits_bits (t : TrunkId) (f : Frame) : decodeFrameBits t f.bits = some (decodeFrame t f.chars) := by
  rw [decodeFrameBits, Frame.bits, charsOfBits_lineBits]; rfl

end Sys2Proof.Machine
end

