-- ==== Sys2Proof/Laws/PerInstr.lean ====
section
/-!
SUPPORT. Family MessageCode: the message a command stands for is read back as that command (08 R148). One lemma per command.
-/

namespace Sys2Proof.Laws.MessageCode

/-- If a command stands for a message, its kind code, sequence and body name that command and no other. -/
def Statement (i : Instr) : Prop :=
  ∀ (kind seq : Byte) (body : List Byte), i.asMessage = some (kind, seq, body) → i.wellFormed = true →
    hostCommand kind seq body = i

theorem powerOn (straps : Straps) (flt : Quad Bool) : Statement (.powerOn straps flt) := by
  intro _ _ _ h
  cases h

theorem resetLine (straps : Straps) (flt : Quad Bool) : Statement (.resetLine straps flt) := by
  intro _ _ _ h
  cases h

theorem lineFault (t : TrunkId) : Statement (.lineFault t) := by
  intro _ _ _ h
  cases h

theorem lineSound (t : TrunkId) : Statement (.lineSound t) := by
  intro _ _ _ h
  cases h

theorem hello (seq : Byte) (body : List Byte) : Statement (.hello seq body) := by
  intro _ _ _ h _
  cases h
  rfl

theorem set (seq : Byte) (body : List Byte) : Statement (.set seq body) := by
  intro _ _ _ h _
  cases h
  rfl

theorem get (seq : Byte) (body : List Byte) : Statement (.get seq body) := by
  intro _ _ _ h _
  cases h
  rfl

theorem trunk (seq : Byte) (body : List Byte) : Statement (.trunk seq body) := by
  intro _ _ _ h _
  cases h
  rfl

theorem pin (seq : Byte) (body : List Byte) : Statement (.pin seq body) := by
  intro _ _ _ h _
  cases h
  rfl

theorem group (seq : Byte) (body : List Byte) : Statement (.group seq body) := by
  intro _ _ _ h _
  cases h
  rfl

theorem forget (seq : Byte) (body : List Byte) : Statement (.forget seq body) := by
  intro _ _ _ h _
  cases h
  rfl

theorem lookup (seq : Byte) (body : List Byte) : Statement (.lookup seq body) := by
  intro _ _ _ h _
  cases h
  rfl

theorem walk (seq : Byte) (body : List Byte) : Statement (.walk seq body) := by
  intro _ _ _ h _
  cases h
  rfl

theorem sendHeader (length : BitVec 16) : Statement (.sendHeader length) := by
  intro _ _ _ h
  cases h

theorem send (seq : Byte) (body : List Byte) : Statement (.send seq body) := by
  intro _ _ _ h _
  cases h
  rfl

theorem stats (seq : Byte) (body : List Byte) : Statement (.stats seq body) := by
  intro _ _ _ h _
  cases h
  rfl

theorem flush (seq : Byte) (body : List Byte) : Statement (.flush seq body) := by
  intro _ _ _ h _
  cases h
  rfl

theorem restart (seq : Byte) (body : List Byte) : Statement (.restart seq body) := by
  intro _ _ _ h _
  cases h
  rfl

theorem unknownKindRequest (kind : Byte) (seq : Byte) (body : List Byte) : Statement (.unknownKindRequest kind seq body) := by
  intro _ _ _ h w
  cases h
  simp only [Instr.wellFormed, requestKinds, grantKinds, Bool.and_eq_true, Bool.not_eq_true', List.contains_eq_mem, List.mem_cons,
    List.not_mem_nil, or_false, decide_eq_false_iff_not, not_or] at w
  simp only [hostCommand, w, if_false]

theorem credit (seq : Byte) (body : List Byte) : Statement (.credit seq body) := by
  intro _ _ _ h _
  cases h
  rfl

theorem noted (seq : Byte) (body : List Byte) : Statement (.noted seq body) := by
  intro _ _ _ h _
  cases h
  rfl

theorem hostBadMessage : Statement .hostBadMessage := by
  intro _ _ _ h
  cases h

theorem hostMessageAbandon : Statement .hostMessageAbandon := by
  intro _ _ _ h
  cases h

theorem replyEnd : Statement .replyEnd := by
  intro _ _ _ h
  cases h

theorem noticeMessageEnd : Statement .noticeMessageEnd := by
  intro _ _ _ h
  cases h

theorem telegramEnd : Statement .telegramEnd := by
  intro _ _ _ h
  cases h

theorem noticeTimerExpiry : Statement .noticeTimerExpiry := by
  intro _ _ _ h
  cases h

theorem agingExpiry : Statement .agingExpiry := by
  intro _ _ _ h
  cases h

theorem callDue (t : TrunkId) : Statement (.callDue t) := by
  intro _ _ _ h
  cases h

theorem pollStart (t : TrunkId) : Statement (.pollStart t) := by
  intro _ _ _ h
  cases h

theorem callStart (t : TrunkId) : Statement (.callStart t) := by
  intro _ _ _ h
  cases h

theorem deliverStart (t : TrunkId) : Statement (.deliverStart t) := by
  intro _ _ _ h
  cases h

theorem bcastStart (t : TrunkId) : Statement (.bcastStart t) := by
  intro _ _ _ h
  cases h

theorem confirmStart (t : TrunkId) : Statement (.confirmStart t) := by
  intro _ _ _ h
  cases h

theorem pollEnd (t : TrunkId) : Statement (.pollEnd t) := by
  intro _ _ _ h
  cases h

theorem callEnd (t : TrunkId) : Statement (.callEnd t) := by
  intro _ _ _ h
  cases h

theorem deliverEnd (t : TrunkId) : Statement (.deliverEnd t) := by
  intro _ _ _ h
  cases h

theorem bcastEnd (t : TrunkId) : Statement (.bcastEnd t) := by
  intro _ _ _ h
  cases h

theorem confirmEnd (t : TrunkId) : Statement (.confirmEnd t) := by
  intro _ _ _ h
  cases h

theorem frameStart (t : TrunkId) : Statement (.frameStart t) := by
  intro _ _ _ h
  cases h

theorem dataHeader (t : TrunkId) (h : FrameHeader) : Statement (.dataHeader t h) := by
  intro _ _ _ h
  cases h

theorem dataFrame (t : TrunkId) (h : StationHead) (dest : Num) (cls : Byte) (data : List Byte) : Statement (.dataFrame t h dest cls data) := by
  intro _ _ _ h
  cases h

theorem nilFrame (t : TrunkId) (h : StationHead) : Statement (.nilFrame t h) := by
  intro _ _ _ h
  cases h

theorem ackFrame (t : TrunkId) (h : StationHead) : Statement (.ackFrame t h) := by
  intro _ _ _ h
  cases h

theorem busyFrame (t : TrunkId) (h : StationHead) : Statement (.busyFrame t h) := by
  intro _ _ _ h
  cases h

theorem joinFrame (t : TrunkId) (h : StationHead) (profile : Byte) : Statement (.joinFrame t h profile) := by
  intro _ _ _ h
  cases h

theorem failedFrame (t : TrunkId) : Statement (.failedFrame t) := by
  intro _ _ _ h
  cases h

theorem truncatedFrame (t : TrunkId) : Statement (.truncatedFrame t) := by
  intro _ _ _ h
  cases h

theorem fragmentEnd (t : TrunkId) : Statement (.fragmentEnd t) := by
  intro _ _ _ h
  cases h

theorem answerTimeout (t : TrunkId) : Statement (.answerTimeout t) := by
  intro _ _ _ h
  cases h

theorem callWindowExpiry (t : TrunkId) : Statement (.callWindowExpiry t) := by
  intro _ _ _ h
  cases h

theorem settleGapEnd (t : TrunkId) : Statement (.settleGapEnd t) := by
  intro _ _ _ h
  cases h

theorem spreadGapEnd (t : TrunkId) : Statement (.spreadGapEnd t) := by
  intro _ _ _ h
  cases h

theorem quietPeriodEnd (t : TrunkId) : Statement (.quietPeriodEnd t) := by
  intro _ _ _ h
  cases h

theorem resetAsserted : Statement .resetAsserted := by
  intro _ _ _ h
  cases h

end Sys2Proof.Laws.MessageCode
end

