-- ==== Sys2Proof/Laws/Requests.lean ====
section
/-!
SUPPORT. What a request that is taken comes to: its run on the counted state, its reply cached and queued, the end of the event.
-/

namespace Sys2Proof.Machine

variable {s u : State} {kind seq : Byte} {body b : List Byte} {e : Failure} {drop : State → State}
  {run : State → State × Answer}

theorem conclude_restart (seq : Byte) (check : BitVec 16) (r : State × Answer) :
    (conclude seq check r).link.restart = r.1.link.restart := by
  unfold conclude
  split <;> rfl

theorem checkRestart_of_none (h : s.link.restart = none) : checkRestart s = s := by
  unfold checkRestart
  rw [h]

/-- A request that is taken is executed. -/
theorem request_taken (ht : s.takes kind seq body) :
    whileRunning s (request kind seq body drop run) =
      .next (finish (resume (checkRestart (conclude seq (messageCheck kind seq body) (run (countIn s)))))) := by
  obtain ⟨h0, h1, h2, h3, h4⟩ := ht
  have hf : (countIn s).repliesFull = false := by
    show decide (Config.replyRoom ≤ s.link.replies.length) = false
    exact decide_eq_false (by omega)
  have hp : (countIn s).isReplay seq (messageCheck kind seq body) = false := h3
  have hr : (countIn s).link.restart.isSome = false := by
    show s.link.restart.isSome = false
    rw [h4]
    rfl
  simp [whileRunning, h0, request, h1, judgeRequest, hf, hp, hr]

/-- A request that is taken and answers DONE. -/
theorem request_done (ht : s.takes kind seq body) (hd : run (countIn s) = (u, .done b)) (hr : u.link.restart = none) :
    whileRunning s (request kind seq body drop run) = .next (answered kind seq body ⟨0x41, seq, b⟩ u) := by
  rw [request_taken ht, hd, checkRestart_of_none (by rw [conclude_restart]; exact hr)]
  rfl

/-- A request that is taken and answers FAILED. -/
theorem request_failed (ht : s.takes kind seq body) (hd : run (countIn s) = (u, .failed e))
    (hr : u.link.restart = none) :
    whileRunning s (request kind seq body drop run) = .next (answered kind seq body ⟨0x42, seq, [e.code, e.detail]⟩ u) := by
  rw [request_taken ht, hd, checkRestart_of_none (by rw [conclude_restart]; exact hr)]
  rfl

/-- A request that is taken, changes nothing and answers FAILED. -/
theorem request_failed_same (ht : s.takes kind seq body) (hd : run (countIn s) = (countIn s, .failed e)) :
    whileRunning s (request kind seq body drop run) =
      .next (answered kind seq body ⟨0x42, seq, [e.code, e.detail]⟩ (countIn s)) :=
  request_failed ht hd ht.2.2.2.2

/-- A request that is taken, changes nothing and answers DONE. -/
theorem request_done_same (ht : s.takes kind seq body) (hd : run (countIn s) = (countIn s, .done b)) :
    whileRunning s (request kind seq body drop run) = .next (answered kind seq body ⟨0x41, seq, b⟩ (countIn s)) :=
  request_done ht hd ht.2.2.2.2

/-- A service leaves a RESTART as it is. -/
theorem Services.restart {s s' : State} (h : Services s s') : s'.link.restart = s.link.restart := h.link.restart

end Sys2Proof.Machine
end

