-- ==== Sys2Proof/Tests/Slice0.lean ====
section
/-!
SUPPORT. Tests: ill-formed commands refused, characters spelled out, the manual's own tables, and for every statement with hypotheses a
state and operands that meet them.
-/

namespace Sys2Proof.Tests

set_option Elab.async false

open Sys2Proof.Machine

/-! ### Small states -/

/-- A station learned on trunk 0. -/
def learned : Station := ⟨.dynamic (some 0) true none, .active, 0, 0, 3, none, false, false, 0, 0⟩

/-- A station homed on trunk `t`. -/
def homed (t : TrunkId) : Station := { learned with kind := .dynamic (some t) true none }

/-- A pinned station. -/
def fixed (t : TrunkId) (pass : Bool) : Station := { learned with kind := .pinned t none pass }

/-- Station 0005 with a block held. -/
def holding : Station := { learned with held := 1 }

/-- A state with these entries. -/
def withDir (d : List DirEntry) (s : State) : State := s.setDir d

/-- Trunk 0 in CARRY. -/
def carrying : State := State.reset.modTrunk 0 fun k => { k with mode := .carry }

/-- Trunk 0 in CARRY with station 0005 on it. -/
def peopled : State := withDir [⟨5, .station learned⟩] carrying

/-- Trunk 0's controller in an activity with a transaction. -/
def busyWith (a : Activity) (k : TxnKind) (p : FramePhase) : State :=
  peopled.modTrunk 0 fun r => { r with activity := a, txn := some ⟨k, p, false, none, none⟩ }

/-- The same with the answer in reception. -/
def answering (a : Activity) (k : TxnKind) : State :=
  (busyWith a k .ended).modTrunk 0 fun r => { r with rx := .answer }

/-- The same with its timer running. -/
def timed (a : Activity) (k : TxnKind) : State := (busyWith a k .ended).modTrunk 0 fun r => { r with timer := some 30 }

/-- A telegram of one byte for station 0005, stored under ticket 0, from the host. -/
def parcel : Ticket := ⟨0, 0, some 5, some 1, .host, 1, 1, [0x2A], 1, some 0⟩

/-- A state that holds the telegram, with an entry for it in class 1 of trunk 0. -/
def loaded (s : State) (q : QEntry) : State :=
  setFifo (.trunk 0) 1 [q]
    (s.setStore { s.store with tickets := [parcel], freeBlocks := 511, occ := ⟨Quad.all 0, 1⟩, leastFree := 511, peakTickets := 1 })

/-- A DELIVER entry of that telegram. -/
def entry : QEntry := ⟨0, some .deliver, 0, false, false⟩

/-- The transaction that serves it. -/
def delivery : TxnKind := .deliver 5 1 0 0

/-- A notice with a sequence. -/
def told (n : Byte) : Notice := ⟨n, 0, .gone 5 .aged⟩

/-- A state with `n` replies waiting. -/
def replying (n : Nat) : State := State.reset.modLink fun l => { l with replies := List.replicate n ⟨0x41, 0, []⟩ }

/-- A RESTART in progress that awaits trunk 0. -/
def restarting : RestartProgress := ⟨⟨0, 0, 0, 0⟩, ⟨true, false, false, false⟩⟩

/-- A state in which that RESTART is in progress. -/
def inRestart (s : State) : State :=
  s.modLink fun l => { l with restart := some restarting, cache := some ⟨7, 0, none⟩ }

/-- `n` groups, numbered from FF00 on. -/
def groups (n : Nat) : List DirEntry :=
  (List.range n).map fun i => ⟨0xFF00 + BitVec.ofNat 16 i, .group ⟨Quad.all true, false⟩⟩

/-- The marks of a frame from station `n`. -/
def head (n : Num) (mark : Bool) : StationHead := ⟨n, mark, false⟩

/-- The state after a command. -/
def after (c : Instr) (s : State) : State :=
  match exec c s with
  | .next t => t
  | .fault _ | .refused _ => s

/-! ### Ill-formed commands -/

theorem test_longBodyIllFormed : (Instr.hello 0 (List.replicate 257 0)).wellFormed = false := by decide +kernel
theorem test_longGrantIllFormed : (Instr.credit 0 (List.replicate 257 0)).wellFormed = false := by decide +kernel
theorem test_requestKindIllFormed : (Instr.unknownKindRequest 0x1A 0 []).wellFormed = false := by decide
theorem test_grantKindIllFormed : (Instr.unknownKindRequest 0x22 0 []).wellFormed = false := by decide
theorem test_longUnknownIllFormed : (Instr.unknownKindRequest 0x10 0 (List.replicate 257 0)).wellFormed = false := by
  decide +kernel
theorem test_shortHeaderIllFormed : (Instr.sendHeader 1).wellFormed = false := by decide
theorem test_longHeaderIllFormed : (Instr.sendHeader 259).wellFormed = false := by decide
theorem test_longDataIllFormed : (Instr.dataFrame 0 (head 5 false) 0 0 (List.replicate 241 0)).wellFormed = false := by
  decide +kernel
theorem test_boundariesWellFormed :
    (Instr.hello 0 (List.replicate 256 0)).wellFormed = true ∧ (Instr.sendHeader 2).wellFormed = true ∧
      (Instr.sendHeader 258).wellFormed = true ∧ (Instr.unknownKindRequest 0x10 0 []).wellFormed = true ∧
      (Instr.dataFrame 0 (head 5 false) 0 0 (List.replicate 240 0)).wellFormed = true := by decide +kernel

/-! ### Characters -/

/-- The check's own test (04 R66). -/
theorem test_check : crc16 [0x31, 0x32, 0x33, 0x34, 0x35, 0x36, 0x37, 0x38, 0x39] = 0x29B1 := by decide +kernel

/-- The character C3 (hex) on a line: the least significant bit first (04 R60); read back; a run that stops short spells none. -/
theorem test_characterBits :
    charBits 0xC3 = [.start, .data true, .data true, .data false, .data false, .data false, .data false, .data true,
        .data true, .stop] ∧
      charsOfBits none (charBits 0xC3 ++ charBits 0x01) = some [0xC3, 0x01] ∧
      charsOfBits none ((charBits 0xC3).take 9) = none := by decide +kernel

/-- A NIL read from its bits. -/
theorem test_bitsRead :
    decodeFrameBits 2 (Frame.bits ⟨0x1234, .nil, true, false, []⟩) =
      some [.frameStart 2, .dataHeader 2 ⟨0xC3, 0x1234, 0x1A, 0⟩, .nilFrame 2 ⟨0x1234, true, false⟩] := by decide +kernel

/-- The manual's character times (04 R60). -/
theorem test_charTime : charTime 250000 = 40 ∧ charTime 500000 = 20 ∧ charTime 1000000 = 10 := by
  norm_num [charTime]

/-- A POLL of station 0031: lead, station, control, body length, check. -/
theorem test_pollCharacters : (pollFrame 0x31).chars.take 5 = [0xC3, 0x00, 0x31, 0x01, 0x00] := by decide +kernel

/-- A NIL under mark 1, its frame's check computed over the four bytes after the lead. -/
theorem test_nilRead :
    decodeFrame 2 ([0xC3, 0x12, 0x34, 0x1A, 0x00] ++ numBytes (crc16 [0x12, 0x34, 0x1A, 0x00])) =
      [.frameStart 2, .dataHeader 2 ⟨0xC3, 0x1234, 0x1A, 0⟩, .nilFrame 2 ⟨0x1234, true, false⟩] := by decide +kernel

/-- A DATA of two bytes with the resync flag, which is disregarded but read. -/
theorem test_dataRead :
    decodeFrame 1 ([0xC3, 0x00, 0x05, 0x29, 0x05, 0xFF, 0xFF, 0x03, 0x61, 0x62] ++
        numBytes (crc16 [0x00, 0x05, 0x29, 0x05, 0xFF, 0xFF, 0x03, 0x61, 0x62])) =
      [.frameStart 1, .dataHeader 1 ⟨0xC3, 5, 0x29, 5⟩, .dataFrame 1 ⟨5, false, true⟩ 0xFFFF 3 [0x61, 0x62]] := by
  decide +kernel

/-- A frame with a bad check fails; one that stops short is truncated; characters after its end are a fragment. -/
theorem test_badFramesRead :
    decodeFrame 0 [0xC3, 0x00, 0x05, 0x0A, 0x00, 0x00, 0x00] =
        [.frameStart 0, .dataHeader 0 ⟨0xC3, 5, 0x0A, 0⟩, .failedFrame 0] ∧
      decodeFrame 0 [0xC3, 0x00] = [.frameStart 0, .truncatedFrame 0] ∧
      decodeFrame 0 ([0xC3, 0x00, 0x05, 0x0B, 0x00] ++ numBytes (crc16 [0x00, 0x05, 0x0B, 0x00]) ++ [0x55]) =
        [.frameStart 0, .dataHeader 0 ⟨0xC3, 5, 0x0B, 0⟩, .ackFrame 0 (head 5 false), .fragmentEnd 0] := by
  decide +kernel

/-- CREDIT 16 and a GET on the host line, a bad check, a bad length. -/
theorem test_messagesRead :
    decodeHost ([0xA5, 0x00, 0x03, 0x21, 0x00, 0x10] ++ numBytes (crc16 [0x21, 0x00, 0x10])) =
        some ([.credit 0 [0x10]], []) ∧
      decodeHost ([0xA5, 0x00, 0x04, 0x13, 0x07, 0x20, 0xFF] ++ numBytes (crc16 [0x13, 0x07, 0x20, 0xFF]) ++ [0xA5]) =
        some ([.get 7 [0x20, 0xFF]], [0xA5]) ∧
      decodeHost [0xA5, 0x00, 0x02, 0x11, 0x00, 0x00, 0x00] = some ([.hostBadMessage], []) ∧
      decodeHost [0xA5, 0x01, 0x03, 0x11] = some ([.hostBadMessage], [0x11]) ∧
      decodeHost [0x11, 0xA5] = some ([], [0xA5]) := by decide +kernel

/-- A SEND's header point stands before the SEND. -/
theorem test_sendRead :
    decodeHost ([0xA5, 0x00, 0x05, 0x1A, 0x09, 0x00, 0x05, 0x02] ++ numBytes (crc16 [0x1A, 0x09, 0x00, 0x05, 0x02])) =
      some ([.sendHeader 5, .send 9 [0x00, 0x05, 0x02]], []) := by decide +kernel

/-! ### The manual's tables -/

/-- The state of 06 section 6.9. -/
def routing : State :=
  let s := [0, 1, 3].foldl (fun (acc : State) t => acc.modTrunk t fun k => { k with mode := .carry }) State.reset
  let s := (s.modTrunk 2 fun k => { k with mode := .survey }).modTrunk 3 fun k => { k with line := .faulted }
  withDir
    [⟨0x11, .station (homed 0)⟩, ⟨0x21, .station (homed 1)⟩, ⟨0x22, .station { homed 1 with state := .silent }⟩,
      ⟨0x30, .station (fixed 2 true)⟩, ⟨0x31, .station (homed 2)⟩, ⟨0x40, .station (homed 3)⟩,
      ⟨0xFF10, .group ⟨⟨false, true, true, true⟩, true⟩⟩]
    (s.setParams { s.params with localTurn := 0, unknownPolicy := 2 })

/-- The outcome of a routing decision on that state: the egresses, or the refusal. -/
def routed (arrival : Port) (source : Num) (cls : Byte) (dest : Num) : List Need ⊕ Reason :=
  match routing.route arrival source dest cls with
  | .ok r => .inl r.2
  | .error e => .inr e

/-- Arrivals from trunks, row by row (06 section 6.9). -/
theorem test_routingTable :
    routed (.trunk 0) 0x11 1 0x21 = .inl [(.trunk 1, some .deliver)] ∧
      routed (.trunk 0) 0x11 1 0x22 = .inl [(.trunk 1, some .deliver)] ∧
      routed (.trunk 0) 0x11 2 0x30 = .inl [(.trunk 2, some .deliver)] ∧
      routed (.trunk 0) 0x11 2 0x31 = .inr .noRoute ∧ routed (.trunk 0) 0x11 0 0x40 = .inr .lineDown ∧
      routed (.trunk 1) 0x21 0 0x22 = .inr .local_ ∧ routed (.trunk 1) 0x21 3 0x21 = .inr .self_ ∧
      routed (.trunk 0) 0x11 1 0x99 = .inl [(.trunk 0, some .bcast), (.trunk 1, some .bcast)] ∧
      routed (.trunk 0) 0x11 1 0xFF10 = .inl [(.trunk 1, some .bcast), (.host, none)] ∧
      routed (.trunk 1) 0x21 2 0xFFFF = .inl [(.trunk 0, some .bcast), (.trunk 1, some .bcast), (.host, none)] ∧
      routed (.trunk 2) 0x31 0 0 = .inl [(.host, none)] ∧ routed (.trunk 2) 0x31 0 0x11 = .inr .surveyOnly ∧
      routed (.trunk 2) 0x31 4 0x11 = .inr .badHeader := by
  and_intros <;> decide +kernel

/-- SEND requests, row by row (06 section 6.9). -/
theorem test_sendTable :
    routed .host 0 2 0x31 = .inr .noRoute ∧ routed .host 0 2 0x30 = .inl [(.trunk 2, some .deliver)] ∧
      routed .host 0 1 0x21 = .inl [(.trunk 1, some .deliver)] ∧ routed .host 0 1 0xFF20 = .inr .noRoute ∧
      routed .host 0 0 0 = .inr .self_ := by decide +kernel

/-- Picks 1 and 11 of 11 section 11.8, balances as classes 0 to 3. -/
theorem test_picks :
    let s := carrying.modTrunk 0 fun k => { k with egress := { k.egress with fifo := Quad.all [entry] } }
    let r := chooseClass 0 s
    let l := chooseClass 0 (setBalances 0 ⟨-1, -2, -3, 6⟩ s)
    r.2 = some 3 ∧ (r.1.trunk 0).egress.balance = ⟨1, 2, 3, -6⟩ ∧ l.2 = some 3 ∧
      (l.1.trunk 0).egress.balance = ⟨0, 0, 0, 0⟩ := by decide +kernel

/-- The tie rule: pick 2 of the second table of 07 section 7.2. -/
theorem test_tie :
    let s := carrying.modTrunk 0 fun k => { k with egress := ⟨⟨[entry], [], [entry], []⟩, ⟨1, 0, -1, 0⟩⟩ }
    let r := chooseClass 0 s
    r.2 = some 2 ∧ (r.1.trunk 0).egress.balance = ⟨2, 0, -2, 0⟩ := by decide +kernel

/-- PIN of 0030 on trunk 0 (11 section 11.1): the reply and the entry. -/
theorem test_pinSession :
    let s := after (.pin 3 [0x00, 0x30, 0x00, 0x00, 0x01, 0x07]) State.reset
    s.link.tx = .reply ⟨0x41, 3, [0x00, 0x30, 0x01]⟩ ∧
      s.station 0x30 = some ⟨.pinned 0 none true, .active, 0, 0, 7, none, false, true, 0, 0⟩ := by decide +kernel

/-- TRUNK 0 SURVEY (11 section 11.1): a CALL is decided at once. -/
theorem test_trunkSession :
    let s := after (.trunk 4 [0x00, 0x01]) State.reset
    s.link.tx = .reply ⟨0x41, 4, [0x00, 0x01, 0x00]⟩ ∧ (s.trunk 0).activity = .calling ∧ (s.trunk 0).mode = .survey := by
  decide +kernel

/-- SET AGING_PERIOD 120 (11 section 11.1). -/
theorem test_setSession :
    let s := after (.set 2 [0x20, 0xFF, 0, 0, 0, 120]) State.reset
    s.link.tx = .reply ⟨0x41, 2, [0x20, 0xFF, 0, 0, 0, 120]⟩ ∧ s.params.agingPeriod = 120 ∧ s.aging.length = 60000 := by
  decide +kernel

/-- A JOIN from 0010 on trunk 0 (11 section 11.1): the notice and the RECEIPT to be sent. -/
theorem test_joinSession :
    let s := after (.joinFrame 0 (head 0x10 false) 3) (answering .calling .call)
    s.link.tx = .notice ⟨0x61, 0, [0, 0x02, 0x00, 0x10, 0x00, 0xFF, 0x03]⟩ ∧ (s.trunk 0).activity = .confirming ∧
      (s.trunk 0).txn = some ⟨.call, .waiting, false, none, some ⟨0x10, false, none⟩⟩ ∧ s.dir.length = 2 := by
  decide +kernel

/-- A DATA's header granted 4 blocks for 100 bytes (11 section 11.3). -/
theorem test_headerSession :
    let s := after (.dataHeader 0 ⟨0xC3, 5, 0x19, 103⟩) (answering .polling (.poll 5))
    s.store.freeBlocks = 508 ∧ s.store.occ.get (.trunk 0) = 4 ∧
      s.ticket 0 = some ⟨0, 5, none, none, .trunk 0, 100, 4, [], 0, none⟩ := by decide +kernel

/-- An arrival of class 9 ends: its FILLING ticket holds the destination, the class as received and the data when the refusal is decided,
and the release returns it. -/
theorem test_fillingTicket :
    let s := fillTicket 0 6 9 [0x2A] (after (.dataHeader 0 ⟨0xC3, 5, 0x19, 4⟩) (answering .polling (.poll 5)))
    s.ticket 0 = some ⟨0, 5, some 6, some 9, .trunk 0, 1, 1, [0x2A], 0, none⟩ ∧ s.stored 0 = none ∧
      s.route (.trunk 0) 5 6 9 = .error .badHeader ∧ (releaseFilling 0 s).ticket 0 = none := by decide +kernel

/-- The first missed answer: counted, the settle gap of 1.0 ms begins. -/
theorem test_timeoutSession :
    let s := after (.answerTimeout 0) (timed .polling (.poll 5))
    (s.trunk 0).counters.timeouts = 1 ∧ (s.trunk 0).activity = .settling ∧ (s.trunk 0).timer = some 40 ∧
      (s.station 5).map Station.missed = some 1 := by decide +kernel

/-- POWER_ON puts STARTED with reason POWER on HTX as notice 0. -/
theorem test_powerOn :
    (after (.powerOn ⟨false, true⟩ (Quad.all false)) (replying 2)).link.tx = .notice ⟨0x61, 0, [0, 0x01, 0x00]⟩ := by
  decide +kernel

/-- STATS of the store: 5 counters and 2 figures. -/
theorem test_stats :
    (after (.stats 1 [0x05, 0x00]) State.reset).link.tx =
      .reply ⟨0x41, 1, [0x05, 0x00, 0x05, 0, 0, 0, 0, 0, 0, 0, 0, 0, 0, 0, 0, 0, 0, 2, 0, 0, 0, 0, 0, 2, 0, 0, 0]⟩ := by
  decide +kernel

/-! ### Hypotheses: for each statement a state and operands that meet them -/

theorem test_hyp_StartOfOperation :
    ((Instr.powerOn ⟨true, true⟩ (Quad.all true) = .powerOn ⟨true, true⟩ (Quad.all true) ∧ StartReason.power = .power) ∧
      Instr.resetLine ⟨false, true⟩ (Quad.all false) = .resetLine ⟨false, true⟩ (Quad.all false) ∧
        StartReason.resetLine = .resetLine) := by
  and_intros <;> rfl

/-- The same two commands meet the hypotheses of DirectoryAfterReset, StoreAfterReset, EgressesAfterReset and ParameterDefaults. -/
theorem test_hyp_AfterReset :
    ∀ c ∈ [Instr.powerOn ⟨true, true⟩ (Quad.all true), .resetLine ⟨true, true⟩ (Quad.all true)],
      c = .powerOn ⟨true, true⟩ (Quad.all true) ∨ c = .resetLine ⟨true, true⟩ (Quad.all true) := by decide +kernel

/-- A state in which RESET_N is asserted, and a command that it keeps from its effect. -/
theorem test_hyp_ResetLineHalts :
    (State.reset.setInReset true).inReset = true ∧ (∀ a f, Instr.replyEnd ≠ .powerOn a f) ∧
      (∀ a f, Instr.replyEnd ≠ .resetLine a f) ∧ (∀ t, Instr.replyEnd ≠ .lineFault t) ∧
      (∀ t, Instr.replyEnd ≠ .lineSound t) ∧ Instr.replyEnd ≠ .resetAsserted := by
  refine ⟨rfl, ?_, ?_, ?_, ?_, ?_⟩ <;> intros <;> exact fun h => by cases h

/-- Trunk 3's line FAULTED, in a mode. -/
def faultyLine (m : Mode) : State := State.reset.modTrunk 3 fun k => { k with line := .faulted, mode := m }

/-- The telegram's DELIVER in flight on trunk 0. -/
def inFlight : State := loaded (busyWith .delivering delivery .ended) entry

/-- A BCAST of the telegram in its spread gap. -/
def spread (q : QEntry) : State := loaded (busyWith .spreading (.bcast 1 0) .ended) q

/-- A RESTART in progress that awaits these trunks, in a state. -/
def inRestartOf (w : Quad Bool) (s : State) : State :=
  s.modLink fun l => { l with restart := some { restarting with waiting := w }, cache := some ⟨7, 0, none⟩ }

theorem test_hyp_FaultInputs :
    (peopled.inFlight (.trunk 0) = none ∧ (spread entry).inFlight (.trunk 0) = some 1 ∧
        (spread entry).fifo (.trunk 0) 1 = entry :: [] ∧ entry.flushMark = false ∧
        ((spread entry).trunk 0).activity = .spreading ∧ ((spread entry).trunk 0).txn.map Txn.phase = some .ended ∧
        (spread { entry with flushMark := true }).fifo (.trunk 0) 1 = { entry with flushMark := true } :: []) ∧
      (inFlight.inFlight (.trunk 0) = some 1 ∧ inFlight.fifo (.trunk 0) 1 = entry :: [] ∧
        (inFlight.trunk 0).activity ≠ .spreading) ∧
      (peopled.inReset = false ∧ (peopled.trunk 0).line = .sound ∧ peopled.link.restart = none) ∧
      (restarting.waiting.get 0 = true ∧ restarting.waiting.get 1 = false ∧
        restarting.waiting.set 0 false = Quad.all false ∧
        (⟨true, true, false, false⟩ : Quad Bool).set 0 false ≠ Quad.all false ∧
        (inRestartOf ⟨true, true, false, false⟩ peopled).link.restart = some ⟨⟨0, 0, 0, 0⟩, ⟨true, true, false, false⟩⟩ ∧
        (inRestart peopled).link.restart = some restarting ∧ (inRestart peopled).link.cache = some ⟨7, 0, none⟩ ∧
        ((inRestart peopled).trunk 0).line = .sound) ∧
      ((faultyLine .closed).inReset = false ∧ ((faultyLine .closed).trunk 3).line = .faulted ∧
        ((faultyLine .closed).trunk 3).mode = .closed) ∧
      ((faultyLine .carry).trunk 3).line = .faulted ∧ ((faultyLine .carry).trunk 3).mode ≠ .closed := by
  and_intros <;> decide +kernel

/-- A request, with three and with four replies waiting, as a replay, as a repeat of one whose reply is not there yet, and in a
RESTART. -/
theorem test_hyp_RequestJudgement :
    let c := Instr.get 7 [0x20, 0xFF]
    let k := messageCheck 0x13 7 [0x20, 0xFF]
    let cached := fun m => (replying 3).modLink fun l => { l with cache := some ⟨7, k, m⟩ }
    (c.asMessage = some (0x13, 7, [0x20, 0xFF]) ∧ c.wellFormed = true) ∧
      ((replying 4).inReset = false ∧ Config.replyRoom ≤ (replying 4).link.replies.length) ∧
      ((replying 3).link.replies.length < Config.replyRoom ∧ (cached none).link.replies.length < Config.replyRoom) ∧
      ((cached none).link.cache = some ⟨7, k, none⟩ ∧
        (cached (some ⟨0x41, 7, []⟩)).link.cache = some ⟨7, k, some ⟨0x41, 7, []⟩⟩) ∧
      ((inRestart State.reset).isReplay 7 k = false ∧ (inRestart State.reset).link.restart ≠ none) := by
  and_intros <;> decide +kernel

theorem test_hyp_MalformedRequestsFail :
    State.reset.takes 0x10 0 [] ∧ (replying 3).takes 0x20 9 (List.replicate 256 0) ∧ State.reset.takes 0x11 1 [] ∧
      State.reset.takes 0x1D 1 [0, 0] ∧ (Instr.hello 1 []).asMessage = some (0x11, 1, []) ∧
      (Instr.restart 1 [0, 0]).asMessage = some (0x1D, 1, [0, 0]) ∧ (Instr.restart 1 [0, 0]).wellFormed = true := by
  unfold State.takes
  and_intros <;> decide +kernel

theorem test_hyp_OutOfRangeFails :
    (State.reset.takes 0x14 1 [4, 0] ∧ State.reset.takes 0x15 1 [0xFF, 0, 3, 129, 2, 0] ∧
        State.reset.takes 0x16 1 [0xFF, 0xFF, 0x20] ∧ State.reset.takes 0x19 1 [0, 0, 9, 8]) ∧
      (State.reset.takes 0x1B 1 [7, 2] ∧ State.reset.takes 0x1C 1 [5, 0x10] ∧ State.reset.takes 0x1D 1 [2]) ∧
      isStationNumber (numOfBytes 0xFF 0x00) = false ∧ isGroupNumber (numOfBytes 0xFF 0xFF) = false := by
  unfold State.takes
  and_intros <;> decide +kernel

theorem test_hyp_HelloAnswers :
    State.reset.takes 0x11 1 [0x00] ∧ State.reset.takes 0x11 1 [0x01] ∧ State.reset.takes 0x11 1 [0x02] ∧
      1 < (0x02 : Byte).toNat ∧ 1 < (0xFF : Byte).toNat ∧ State.reset.takes 0x11 1 [] ∧ State.reset.takes 0x11 1 [0, 0] := by
  unfold State.takes
  and_intros <;> decide +kernel

/-- SET of BIT_RATE at the ends of its range, of AGING_PERIOD, out of range, of STARTED to 0, of BIT_RATE on an open trunk, of no
parameter. -/
theorem test_hyp_SetWritesOrFails :
    State.reset.takes 0x12 1 [0x01, 0x03, 0, 0, 0x4B, 0x00] ∧ paramRef 0x01 0x03 = some (.trunk 3 .bitRate) ∧
      (ParamRef.trunk 3 .bitRate).inRange 19200 = true ∧ (ParamRef.trunk 3 .bitRate).inRange 1000000 = true ∧
      State.reset.setObstacle (.trunk 3 .bitRate) 19200 = none ∧ (ParamRef.trunk 3 .bitRate).inRange 19201 = false ∧
      paramRef 0x20 0xFF = some (.global .agingPeriod) ∧ State.reset.setObstacle (.global .agingPeriod) 5 = none ∧
      (ParamRef.notice .started).inRange 0 = true ∧ (carrying.trunk 0).mode ≠ .closed ∧ paramRef 0x00 0x00 = none ∧
      ((∀ t, ParamRef.hostPortCap ≠ .trunk t .learn) ∧ (∀ t, ParamRef.hostPortCap ≠ .trunk t .callSpacing) ∧
        ParamRef.hostPortCap ≠ .global .stationCap) ∧ paramRef 0x2C 0x09 ≠ none := by
  unfold State.takes
  and_intros <;> decide +kernel

theorem test_hyp_GetReadsValue :
    State.reset.takes 0x13 1 [0x20, 0xFF] ∧ paramRef 0x20 0xFF = some (.global .agingPeriod) ∧
      State.reset.takes 0x13 1 [0x20, 0x00] ∧ paramRef 0x20 0x00 = none := by
  unfold State.takes
  and_intros <;> decide +kernel

/-- Trunk 0 in a quiet period. -/
def resting : State := carrying.modTrunk 0 fun k => { k with activity := .quiet, timer := some 40 }

/-- Every kind of entry that the aging scan treats in its own way. -/
def elderly : State :=
  withDir
    [⟨1, .station learned⟩, ⟨2, .station { learned with kind := .dynamic (some 0) false none }⟩,
      ⟨3, .station { holding with kind := .dynamic (some 0) false none }⟩,
      ⟨4, .station { holding with kind := .dynamic none false (some .closed) }⟩, ⟨5, .station (fixed 1 false)⟩,
      ⟨0xFF00, .group ⟨Quad.all true, false⟩⟩]
    State.reset

/-- Trunk 0 in a mode with an activity and a line state. -/
def standing (m : Mode) (a : Activity) (l : LineState) : State :=
  State.reset.modTrunk 0 fun k => { k with mode := m, activity := a, line := l }

/-- TRUNK to each mode from each other, QUIET or not, SOUND or FAULTED. -/
theorem test_hyp_TrunkSetsMode :
    carrying.takes 0x14 1 [0x00, 0x00] ∧ carrying.takes 0x14 1 [0x00, 0x01] ∧
      (standing .survey .quiet .sound).takes 0x14 1 [0x00, 0x02] ∧
      (parseTrunk 0x00 = some 0 ∧ parseTrunk 0x03 = some 3) ∧
      (parseMode 0x00 = some .closed ∧ parseMode 0x01 = some .survey ∧ parseMode 0x02 = some .carry) ∧
      (carrying.trunk 0).mode = .carry ∧
      (∀ m ∈ [Mode.survey, .carry], ∀ a ∈ [Activity.quiet, .idle], ∀ l ∈ [LineState.sound, .faulted],
        ((standing m a l).trunk 0).mode = m ∧ ((standing m a l).trunk 0).activity = a ∧
          ((standing m a l).trunk 0).line = l) ∧
      ((State.reset.trunk 3).mode = .closed ∧ (State.reset.trunk 3).txn = none ∧ (State.reset.trunk 3).line = .sound ∧
        (State.reset.tparams 3).learn = 1) ∧
      ((faultyLine .closed).trunk 3).line = .faulted ∧ inFlight.ticket 0 = some parcel ∧ elderly.dirLaw := by
  unfold State.takes State.dirLaw
  and_intros <;> decide +kernel

/-- The flush of a mode change and the closing effects, on states where each branch is taken. -/
theorem test_closing :
    inFlight.namedAt 0 (.trunk 0) = 1 ∧ (emptyEgress 0 inFlight).1.ticket 0 = none ∧
      ((emptyEgress 0 inFlight).1.trunk 0).counters.flushed = 1 ∧
      ((closingEffects 0 elderly).dir.map DirEntry.num) = [3, 4, 5, 0xFF00] ∧
      (closingEffects 0 elderly).link.pendingNotices.map Notice.fields = [.gone 1 .closed, .gone 2 .closed] := by
  and_intros <;> decide +kernel

/-- `n` pinned stations, numbered from 0001 on, in a state. -/
def pins (n : Nat) : State :=
  withDir ((List.range n).map fun i => ⟨BitVec.ofNat 16 (i + 1), .station (fixed 0 false)⟩) State.reset

/-- `n` dynamic stations. -/
def crowd (n : Nat) : State :=
  withDir ((List.range n).map fun i => ⟨BitVec.ofNat 16 (i + 1), .station learned⟩) State.reset

theorem test_hyp_PinEdits :
    (State.reset.takes 0x15 1 [0x00, 0xC8, 3, 0xFF, 1, 0] ∧ isStationNumber (numOfBytes 0x00 0xC8) = true) ∧
      (isStationNumber (numOfBytes 0x00 0x01) = true ∧ isStationNumber (numOfBytes 0xFE 0xFF) = true) ∧
      (parseTrunk 3 = some 3 ∧ (parseCap 0x00).isSome = true ∧ parseFlag 1 = some true) ∧
      ((crowd 192).station 0xC8 = none ∧ 192 ≤ (crowd 192).dir.length) ∧
      ((pins 64).station 0xC8 = none ∧ 64 ≤ (pins 64).placedCount) ∧
      ((pins 63).station 0xC8 = none ∧ (pins 63).dir.length < 192 ∧ (pins 63).placedCount < 64) ∧
      peopled.station 5 = some learned ∧ (pins 63).station 1 = some (fixed 0 false) := by
  unfold State.takes
  and_intros <;> decide +kernel

theorem test_hyp_GroupEdits :
    (State.reset.takes 0x16 1 [0xFF, 0x00, 0x11] ∧ isGroupNumber (numOfBytes 0xFF 0x00) = true) ∧
      (isGroupNumber (numOfBytes 0xFF 0xFE) = true ∧ isGroupNumber (numOfBytes 0xFF 0xFF) = false) ∧
      (parseMembers 0x11).isSome = true ∧
      ((crowd 192).entry 0xFF00 = none ∧ 192 ≤ (crowd 192).dir.length) ∧
      ((pins 64).entry 0xFF00 = none ∧ 64 ≤ (pins 64).placedCount) ∧ (pins 63).placedCount < 64 ∧
      (withDir (groups 1) State.reset).entry 0xFF00 = some ⟨0xFF00, .group ⟨Quad.all true, false⟩⟩ := by
  unfold State.takes
  and_intros <;> decide +kernel

theorem test_hyp_ForgetEdits :
    State.reset.takes 0x17 1 [0x00, 0x05] ∧ State.reset.entry 5 = none ∧ peopled.takes 0x17 1 [0x00, 0x05] ∧
      (withDir (groups 1) State.reset).entry 0xFF00 = some ⟨0xFF00, .group ⟨Quad.all true, false⟩⟩ ∧
      peopled.entry 5 = some ⟨5, .station learned⟩ ∧ learned.held = 0 ∧
      (withDir [⟨5, .station holding⟩] State.reset).entry 5 = some ⟨5, .station holding⟩ ∧ holding.held ≠ 0 := by
  unfold State.takes
  and_intros <;> decide +kernel

theorem test_hyp_LookupAnswers :
    peopled.takes 0x18 1 [0x00, 0x05] ∧ peopled.entry (numOfBytes 0x00 0x05) = some ⟨5, .station learned⟩ ∧
      peopled.takes 0x18 1 [0x00, 0x06] ∧ peopled.entry (numOfBytes 0x00 0x06) = none := by
  unfold State.takes
  and_intros <;> decide +kernel

theorem test_hyp_WalkAnswers :
    peopled.takes 0x19 1 [0, 0, 1, 7] ∧ peopled.takes 0x19 1 [0, 0, 8, 1] ∧ peopled.takes 0x19 1 [0, 0, 9, 2] ∧
      (parseFilter 7).isSome = true ∧ (parseFilter 1).isSome = true ∧ (parseFilter 2).isSome = true := by
  unfold State.takes
  and_intros <;> decide +kernel

theorem test_hyp_SendHeaderReserves :
    State.reset.inReset = false ∧ State.reset.link.rx = .hunting ∧ State.reset.link.restart = none ∧
      (([5, 245] : List (BitVec 16)).all fun n => 5 ≤ n.toNat ∧ n.toNat ≤ 245) = true ∧
      (([2, 4, 246, 258] : List (BitVec 16)).all fun n =>
        2 ≤ n.toNat ∧ n.toNat ≤ 258 ∧ (n.toNat < 5 ∨ 245 < n.toNat)) = true ∧
      ((inRestart State.reset).link.rx = .hunting ∧ (inRestart State.reset).link.restart ≠ none) := by
  and_intros <;> decide +kernel

/-- A SEND of `len` data bytes to 0005 under way, with what its header got from the store. -/
def sending (len : Nat) (h : Held) (s : State) : State :=
  s.modLink fun l => { l with rx := .collecting (len + 3) (some h) }

theorem test_hyp_SendRouted :
    ((sending 1 (.granted 0) peopled).takes 0x1A 1 [0, 5, 1, 0x2A] ∧
        (sending 1 (.granted 0) peopled).link.rx = .collecting 4 (some (.granted 0))) ∧
      (sending 240 (.failed .pool) peopled).link.rx = .collecting 243 (some (.failed .pool)) ∧
      ((sending 1 (.granted 0) peopled).route .host 0 5 1).toBool = true ∧
      ((sending 1 (.granted 0) peopled).route .host 0 0 1).toBool = false ∧
      ((after (.sendHeader 6) peopled).ticket 0).isSome = true ∧
      (peopled.link.rx = .hunting ∧ (after (.sendHeader 258) peopled).link.rx = .collecting 256 none ∧
        (reserve .host 0 1 peopled).2 = .granted 0 ∧ peopled.takes 0x1A 1 [0, 5, 1, 0x2A]) ∧
      (State.reset.takes 0x1A 1 [0, 5] ∧ State.reset.takes 0x1A 1 (List.replicate 244 0)) := by
  unfold State.takes
  and_intros <;> decide +kernel

theorem test_hyp_StatsAnswers :
    State.reset.takes 0x1B 1 [0x03, 0x01] ∧ parseGroup 0x00 = some (.trunk 0) ∧ parseGroup 0x03 = some (.trunk 3) ∧
      parseGroup 0x04 = some .host ∧ parseGroup 0x05 = some .store ∧ parseGroup 0x06 = some .directory ∧
      parseFlag 0x00 = some false ∧ parseFlag 0x01 = some true := by
  unfold State.takes
  and_intros <;> decide +kernel

theorem test_hyp_FlushRemoves :
    inFlight.takes 0x1C 1 [0x00, 0x0F] ∧ (parsePort 0x00 = some (.trunk 0) ∧ parsePort 0x04 = some .host) ∧
      parseClasses 0x0F = some (Quad.all true) ∧ parseClasses 0x02 = some ⟨false, true, false, false⟩ ∧
      (inFlight.inFlight (.trunk 0) = some 1 ∧ inFlight.fifo (.trunk 0) 1 = entry :: []) ∧
      (inFlight.inFlight .host = none ∧ inFlight.ticket 0 = some parcel) ∧
      ({ entry with started := true }.form = some .deliver ∧ inFlight.stored 0 = some (parcel, ⟨5, 1, [0x2A], 0⟩)) ∧
      (entry.started = false ∧ inFlight.stored 1 = none) ∧
      (inFlight.station 5 = some learned ∧ learned.home = some 0 ∧ learned.home ≠ some 1) := by
  unfold State.takes
  and_intros <;> decide +kernel

/-- A FLUSH of an entry that is not in flight: counted, its ticket released, its destination's resync pending. -/
theorem test_flush :
    let s := after (.flush 1 [0x00, 0x02]) (loaded peopled { entry with started := true })
    s.fifo (.trunk 0) 1 = [] ∧ (s.trunk 0).counters.flushed = 1 ∧ s.ticket 0 = none ∧
      (s.station 5).map Station.resync = some true ∧ s.link.tx = .reply ⟨0x41, 1, [0x00, 0x01]⟩ := by
  and_intros <;> decide +kernel

theorem test_hyp_RestartTaken :
    State.reset.takes 0x1D 1 [0x00] ∧ (∀ t, (State.reset.trunk t).listening = false) ∧ inFlight.takes 0x1D 1 [0x01] ∧
      (inFlight.trunk 0).listening = true := by
  unfold State.takes
  and_intros <;> decide +kernel

/-- A state with these notices unacknowledged. -/
def awaiting (ns : List Byte) : State :=
  State.reset.modLink fun l => { l with unacked := ns.map fun n => ⟨told n, 3⟩, noticeTimer := some ⟨0, 250⟩ }

/-- The same with the channel stalled. -/
def stalled (ns : List Byte) : State := (awaiting ns).modLink fun l => { l with stalled := true, noticeTimer := none }

theorem test_hyp_GrantsTakeEffect :
    (State.reset.inReset = false ∧ (∀ n ∈ ([1, 16] : List Byte), 1 ≤ n.toNat ∧ n.toNat ≤ 16) ∧
        (∀ n ∈ ([0, 17] : List Byte), n.toNat = 0 ∨ 16 < n.toNat)) ∧
      ((awaiting [4, 5, 6]).link.unacked = [⟨told 4, 3⟩] ++ ⟨told 5, 3⟩ :: [⟨told 6, 3⟩] ∧
        ∀ y ∈ [Unacked.mk (told 4) 3], y.notice.seq ≠ 5) ∧
      (∀ y ∈ (awaiting [4, 5, 6]).link.unacked, y.notice.seq ≠ 7) ∧
      (([] : List Byte).length ≠ 1 ∧ (List.replicate 256 (0 : Byte)).length ≤ 256) ∧
      ((stalled []).link.stalled = true ∧ (stalled []).link.unacked = [] ∧
        (stalled [4]).link.unacked = ⟨told 4, 3⟩ :: [] ∧ (awaiting [4]).link.stalled = false) := by
  and_intros <;> decide +kernel

theorem test_hyp_SpoiledMessageDiscarded :
    State.reset.inReset = false ∧ State.reset.link.rx = .hunting ∧
      (sending 1 (.failed .pool) State.reset).link.rx = .collecting 4 (some (.failed .pool)) ∧
      (after (.sendHeader 2) State.reset).link.rx = .collecting 0 none ∧
      ((after (.sendHeader 5) State.reset).link.rx = .collecting 3 (some (.granted 0)) ∧
        (after (.sendHeader 5) State.reset).ticket 0 = some ⟨0, 0, none, none, .host, 0, 1, [], 0, none⟩) := by
  and_intros <;> decide +kernel

/-- A state whose transmitter sends. -/
def transmitting (x : HostTx) (s : State) : State := s.modLink fun l => { l with tx := x }

/-- A cap of the entry's own, and STATION_CAP (02 R12). -/
theorem test_caps :
    let own : Station := { learned with kind := .pinned 0 (some 9) false }
    State.reset.capOf own = 9 ∧ State.reset.capOf (fixed 1 false) = 24 ∧ State.reset.capOf learned = 24 := by decide +kernel

theorem test_hyp_MessagesEnd :
    let m : Message := (told 4).message
    let s := (transmitting (.notice m) (awaiting [4])).modLink fun l => { l with noticeTimer := none }
    let q := setFifo .host 1 [entry] (transmitting (.telegram m (some 1)) State.reset)
    ((transmitting (.reply m) State.reset).inReset = false ∧ (transmitting (.reply m) State.reset).link.tx = .reply m) ∧
      (s.link.tx = .notice m ∧ s.link.noticeTimer = none ∧ s.link.unacked ≠ [] ∧ s.link.stalled = false) ∧
      (transmitting (.notice m) (awaiting [4])).link.noticeTimer ≠ none ∧
      (q.link.tx = .telegram m (some 1) ∧ q.fifo .host 1 = entry :: []) ∧
      (transmitting (.telegram m none) State.reset).link.tx = .telegram m none := by
  and_intros <;> decide +kernel

theorem test_hyp_NoticeTimerRunsOut :
    (awaiting [4]).inReset = false ∧ (awaiting [4]).link.noticeTimer = some ⟨0, 250⟩ ∧
      (awaiting [4]).link.unacked = ⟨told 4, 3⟩ :: [] ∧ 3 ≤ (Unacked.mk (told 4) 3).resends ∧
      (Unacked.mk (told 4) 2).resends < 3 := by
  and_intros <;> decide +kernel

/-- The scan removes station 2 alone, with its notice and its count (02 R23). -/
theorem test_agingScan :
    let s := agingScan elderly
    s.dir.map DirEntry.num = [1, 3, 4, 5, 0xFF00] ∧ s.link.pendingNotices.map Notice.fields = [.gone 2 .aged] ∧
      s.dirCounters.aged = 1 := by decide +kernel

/-- The resend that ends a stall, still due when the notice timer runs out, raises the resend count (log 38). -/
theorem test_resendAfterStall :
    (noticeSilence ((awaiting [4]).modLink fun l =>
      { l with resendDue := .afterStall, unacked := [⟨told 4, 0⟩] })).link.resendDue = .afterTimeout := by decide +kernel

theorem test_hyp_AgingScans : elderly.inReset = false ∧ elderly.dirLaw := by
  unfold State.dirLaw
  and_intros <;> decide +kernel

/-- The same with a RECEIPT or REFUSE to be sent. -/
def confirming (r : Option Reason) : State :=
  (busyWith .confirming .call .waiting).modTrunk 0 fun k =>
    { k with txn := some ⟨.call, .waiting, false, none, some ⟨5, true, r⟩⟩ }

/-- A BCAST of the telegram about to start. -/
def spreading : State := loaded (busyWith .spreading (.bcast 1 0) .waiting) entry

theorem test_hyp_FramesStart :
    (∀ s ∈ [busyWith .polling (.poll 5) .waiting, busyWith .calling .call .waiting, confirming none,
        confirming (some .pool), spreading],
      s.inReset = false ∧ (s.trunk 0).listening = true ∧ (s.trunk 0).tx = none ∧ (s.trunk 0).rx = .none) ∧
      ((busyWith .polling (.poll 5) .waiting).trunk 0).txn = some ⟨.poll 5, .waiting, false, none, none⟩ ∧
      ((busyWith .polling (.poll 5) .waiting).trunk 0).activity = .polling ∧
      ((busyWith .calling .call .waiting).trunk 0).activity = .calling ∧
      (((confirming none).trunk 0).txn = some ⟨.call, .waiting, false, none, some ⟨5, true, none⟩⟩ ∧
        ((confirming none).trunk 0).activity = .confirming) ∧
      ((spreading.trunk 0).txn = some ⟨.bcast 1 0, .waiting, false, none, none⟩ ∧
        (spreading.trunk 0).activity = .spreading ∧ spreading.stored 0 = some (parcel, ⟨5, 1, [0x2A], 0⟩)) := by
  and_intros <;> decide +kernel

/-- A DELIVER of the telegram about to start. -/
def delivering : State := loaded (busyWith .delivering delivery .waiting) entry

theorem test_hyp_DeliverStarts :
    delivering.inReset = false ∧ ((delivering.trunk 0).listening = true ∧ (delivering.trunk 0).tx = none ∧
        (delivering.trunk 0).rx = .none ∧ (delivering.trunk 0).activity = .delivering) ∧
      (delivering.trunk 0).txn = some ⟨.deliver 5 1 0 0, .waiting, false, none, none⟩ ∧
      delivering.stored 0 = some (parcel, ⟨5, 1, [0x2A], 0⟩) ∧ delivering.fifo (.trunk 0) 1 = entry :: [] ∧
      delivering.station 5 = some learned ∧ (withDir [] delivering).station 5 = none ∧
      (withDir [] delivering).stored 0 = some (parcel, ⟨5, 1, [0x2A], 0⟩) := by
  and_intros <;> decide +kernel

theorem test_hyp_FramesEnd :
    ∀ a ∈ [Activity.polling, .calling, .delivering, .spreading, .confirming],
      let s := busyWith a .call .sending
      s.inReset = false ∧ (s.trunk 0).txn = some ⟨.call, .sending, false, none, none⟩ ∧ (s.trunk 0).activity = a := by
  decide +kernel

theorem test_hyp_FrameStarts :
    (peopled.inReset = false ∧ (peopled.trunk 0).listening = true ∧ (peopled.trunk 0).tx = none ∧
        (peopled.trunk 0).rx = .none) ∧
      (timed .polling (.poll 5)).awaitsAnswer 0 = true ∧ ((timed .settling (.poll 5)).trunk 0).activity = .settling ∧
      (peopled.awaitsAnswer 0 = false ∧ (peopled.trunk 0).activity ≠ .settling) ∧
      (State.reset.trunk 0).listening = false ∧ ((after (.pollStart 0) (busyWith .polling (.poll 5) .waiting)).trunk 0).tx ≠ none := by
  and_intros <;> decide +kernel

theorem test_hyp_DataHeaderReserves :
    let s := answering .polling (.poll 5)
    (s.inReset = false ∧ (s.trunk 0).activity = .polling ∧ (s.trunk 0).rx = .answer ∧
        (s.trunk 0).txn = some ⟨.poll 5, .ended, false, none, none⟩) ∧
      (∀ b ∈ ([3, 243] : List Byte), 3 ≤ b.toNat ∧ b.toNat ≤ 243) ∧
      (∀ b ∈ ([2, 244] : List Byte), ¬(3 ≤ b.toNat ∧ b.toNat ≤ 243)) ∧
      ∀ c ∈ ([0x09, 0x19, 0x29, 0x39] : List Byte), c &&& 0xCF = 0x09 := by
  and_intros <;> decide +kernel

/-- The answer to a POLL of 0005 in reception, its header judged with this outcome. -/
def judged (d : List DirEntry) (h : Held) : State :=
  let s := (withDir d (answering .polling (.poll 5))).modTrunk 0 fun k =>
    { k with txn := some ⟨.poll 5, .ended, false, some h, none⟩ }
  s.setStore { s.store with tickets := [⟨0, 5, none, none, .trunk 0, 1, 1, [], 0, none⟩], freeBlocks := 511, occ := ⟨⟨1, 0, 0, 0⟩, 0⟩ }

theorem test_hyp_DataJudged :
    let s := judged [⟨5, .station learned⟩] (.granted 0)
    let r := judged [⟨5, .station { learned with inMark := some true }⟩] (.granted 0)
    let heardOf := fun (x : State) => heard 0 5 (x.modTrunk 0 fun k =>
      { k with rx := .none, counters := { k.counters with dataIn := countUp k.counters.dataIn } })
    (s.inReset = false ∧ (s.trunk 0).activity = .polling ∧ (s.trunk 0).rx = .answer ∧
        (s.trunk 0).txn = some ⟨.poll 5, .ended, false, some (.granted 0), none⟩ ∧
        (s.ticket 0).map Ticket.length = some [(0x2A : Byte)].length) ∧
      (heardOf r).isRepeat 0 5 true = true ∧ (heardOf s).isRepeat 0 5 true = false ∧
      ((heardOf s).route (.trunk 0) 5 0 0).toBool = true ∧ ((heardOf s).route (.trunk 0) 5 5 0).toBool = false ∧
      ((judged [⟨5, .station learned⟩] (.failed .pool)).trunk 0).txn =
        some ⟨.poll 5, .ended, false, some (.failed .pool), none⟩ := by
  and_intros <;> decide +kernel

theorem test_hyp_GoodAnswersEndTransaction :
    let s := answering .polling (.poll 5)
    let d := inFlight.modTrunk 0 fun k => { k with rx := .answer }
    (s.inReset = false ∧ (s.trunk 0).activity = .polling ∧ (s.trunk 0).rx = .answer ∧
        (s.trunk 0).txn = some ⟨.poll (head 5 true).station, .ended, false, none, none⟩) ∧
      (d.inReset = false ∧ (d.trunk 0).activity = .delivering ∧ (d.trunk 0).rx = .answer ∧
        d.fifo (.trunk 0) 1 = entry :: [] ∧
        (d.trunk 0).txn = some ⟨.deliver (head 5 true).station 1 0 0, .ended, false, none, none⟩) ∧
      ((head 5 false).mark = false ∧ (head 5 true).mark ≠ false) ∧
      ((answering .calling .call).trunk 0).txn = some ⟨.call, .ended, false, none, none⟩ ∧
      ((spread entry).trunk 0).txn = some ⟨.bcast 1 0, .ended, false, none, none⟩ := by
  and_intros <;> decide +kernel

theorem test_hyp_AttemptFailure :
    let s := loaded peopled { entry with started := true }
    (s.fifo (.trunk 0) 1 = { entry with started := true } :: [] ∧ (s.tparams 0).retryLimit = 3) ∧
      (loaded peopled { entry with flushMark := true }).fifo (.trunk 0) 1 = { entry with flushMark := true } :: [] ∧
      (s.stored 0 = some (parcel, ⟨5, 1, [0x2A], 0⟩) ∧ s.station 5 = some learned ∧ learned.home = some 0) := by
  and_intros <;> decide +kernel

/-- A JOIN from 0005 in reception, the directory as given. -/
def joining (d : List DirEntry) : State := withDir d (answering .calling .call)

theorem test_hyp_JoinJudged :
    (∀ s ∈ [joining [], joining (crowd 192).dir, joining [⟨5, .station learned⟩], joining [⟨5, .station (homed 1)⟩],
        joining [⟨5, .station { learned with state := .silent }⟩], joining [⟨5, .station (fixed 0 false)⟩],
        joining [⟨5, .station { fixed 0 false with state := .silent }⟩], joining [⟨5, .station (fixed 1 false)⟩]],
      s.inReset = false ∧ (s.trunk 0).activity = .calling ∧ (s.trunk 0).rx = .answer ∧
        (s.trunk 0).txn = some ⟨.call, .ended, false, none, none⟩ ∧ (s.tparams 0).learn ≠ 0) ∧
      ([0x0001, 0xFEFF] : List Num).all isStationNumber = true ∧
      ([0x0000, 0xFF00, 0xFFFF] : List Num).any isStationNumber = false ∧
      ((joining []).station 5 = none ∧ (joining (crowd 192).dir).station 0x200 = none ∧
        (joining (crowd 192).dir).dir.length = 192) ∧
      ((joining [⟨5, .station learned⟩]).station 5 = some learned ∧
        (joining [⟨5, .station (homed 1)⟩]).station 5 = some (homed 1)) ∧
      (after (.set 1 [0x06, 0x00, 0, 0, 0, 0]) State.reset).params.read (.trunk 0 .learn) = 0 := by
  and_intros <;> decide +kernel

theorem test_hyp_BadAnswers :
    let d := inFlight.modTrunk 0 fun k => { k with rx := .answer }
    (∀ s ∈ [answering .polling (.poll 5), answering .calling .call, d],
      s.inReset = false ∧ (s.trunk 0).rx = .answer ∧ (s.trunk 0).txn ≠ none) ∧
      (((answering .polling (.poll 5)).trunk 0).txn = some ⟨.poll 5, .ended, false, none, none⟩ ∧
        ((answering .polling (.poll 5)).trunk 0).activity = .polling) ∧
      ((d.trunk 0).txn = some ⟨.deliver 5 1 0 0, .ended, false, none, none⟩ ∧ (d.trunk 0).activity = .delivering) ∧
      ((answering .calling .call).trunk 0).activity = .calling ∧ (head 6 true).station ≠ 5 := by
  and_intros <;> decide +kernel

/-- A NIL from another station than the one polled: a bad answer, and a missed one. -/
theorem test_wrongStation :
    let s := after (.nilFrame 0 (head 6 false)) (answering .polling (.poll 5))
    (s.trunk 0).counters.badFrames = 1 ∧ (s.trunk 0).counters.nilIn = 0 ∧ (s.trunk 0).activity = .settling ∧
      (s.station 5).map Station.missed = some 1 := by
  and_intros <;> decide +kernel

theorem test_hyp_LateStrayAndFragment :
    let s := fun r => peopled.modTrunk 0 fun k => { k with rx := r }
    ((s .late).inReset = false ∧ ((s .late).trunk 0).rx = .late ∧ ((s .stray).trunk 0).rx = .stray) ∧
      (peopled.trunk 0).listening = true ∧ (peopled.trunk 0).tx = none ∧ (peopled.trunk 0).rx = .none := by
  and_intros <;> decide +kernel

/-- Station 0005 on trunk 0, ACTIVE or SILENT, with a number of missed answers. -/
def missing (x : StationState) (n : Nat) : Station := { learned with state := x, missed := n }

theorem test_hyp_HeardAndMissed :
    (∀ st ∈ [missing .active 0, missing .active 1, missing .active 2, missing .silent 3],
      (withDir [⟨5, .station st⟩] carrying).station 5 = some st ∧ st.home = some 0) ∧
      (peopled.station 5 = some learned ∧ learned.home ≠ some 1) ∧ peopled.station 6 = none := by
  and_intros <;> decide +kernel

theorem test_hyp_TimersRunOut :
    (∀ p ∈ [(Activity.polling, TxnKind.poll 5), (.delivering, delivery), (.calling, .call), (.settling, .poll 5),
        (.spreading, .bcast 1 0)],
      let s := loaded (timed p.1 p.2) entry
      s.inReset = false ∧ (s.trunk 0).txn = some ⟨p.2, .ended, false, none, none⟩ ∧ (s.trunk 0).timer = some 30 ∧
        (s.trunk 0).activity = p.1 ∧ s.fifo (.trunk 0) 1 = [entry]) ∧
      (loaded (timed .spreading (.bcast 1 0)) { entry with flushMark := true }).fifo (.trunk 0) 1 =
        { entry with flushMark := true } :: [] := by
  and_intros <;> decide +kernel

theorem test_hyp_QuietEndsAndCallFallsDue :
    (resting.inReset = false ∧ (resting.trunk 0).activity = .quiet ∧ (resting.trunk 0).timer = some 40 ∧
        resting.link.restart = none) ∧
      ((inRestart resting).link.restart = some restarting ∧ restarting.waiting.get 0 = true ∧
        restarting.waiting.get 1 = false ∧ restarting.waiting.set 0 false = Quad.all false ∧
        (inRestart resting).link.cache = some ⟨7, 0, none⟩) ∧
      (⟨true, true, false, false⟩ : Quad Bool).set 0 false ≠ Quad.all false ∧
      let s := carrying.modTrunk 0 fun k => { k with lastCall := some 0 }
      (s.trunk 0).listening = true ∧ (s.trunk 0).activity = .idle ∧ (s.tparams 0).learn ≠ 0 ∧
        (s.trunk 0).lastCall = some 0 := by
  and_intros <;> decide +kernel

/-- No call due on trunk 0: a silent station and an active one on it, cycle 1. -/
def working : State :=
  (withDir [⟨4, .station (missing .silent 3)⟩, ⟨5, .station learned⟩] carrying).modTrunk 0 fun k =>
    { k with lastCall := some 0, cycle := 1 }

/-- Trunk 0 with the telegram's entry and a burst that has used `n` slots. -/
def bursting (n : Nat) (q : QEntry) : State := (loaded peopled q).modTrunk 0 fun k => { k with burst := some n }

/-- The only station of trunk 0 in this state, no call due, in cycle `c`. -/
def lone (st : Station) (c : Fin 8) : State :=
  (withDir [⟨5, .station st⟩] carrying).modTrunk 0 fun k => { k with lastCall := some 0, cycle := c }

/-- Steps 1 to 7: an open burst with an entry, and with none; a due CALL; a POLL past a SILENT station; a ring whose stations are
withheld; a poll from start at the end of a cycle; a delivery without a poll; a SILENT station below its cap; an empty ring. -/
theorem test_hyp_WorkDecisions :
    (State.reset.trunk 0).listening = false ∧
      ((∀ s ∈ [carrying, working, bursting 1 entry, lone learned 1],
        (s.trunk 0).listening = true ∧ (s.trunk 0).txn = none ∧ s.link.restart = none)) ∧
      (((bursting 1 entry).trunk 0).burst = some 1 ∧ 1 < ((bursting 1 entry).tparams 0).deliveryBurst ∧
        (pickTrunk 0 (bursting 1 entry)).2 = some (1, entry) ∧
        (pickTrunk 0 (bursting 1 entry)).1.stored 0 = some (parcel, ⟨5, 1, [0x2A], 0⟩) ∧
        (pickTrunk 0 (bursting 1 { entry with form := some .bcast })).2 = some (1, { entry with form := some .bcast }) ∧
        (pickTrunk 0 (setFifo (.trunk 0) 1 [] (bursting 1 entry))).2 = none ∧
        ((bursting 2 entry).tparams 0).deliveryBurst ≤ 2) ∧
      ((carrying.trunk 0).burst = none ∧ (carrying.trunk 0).pointer = none ∧ (carrying.trunk 0).callMade = false ∧
        carrying.callIsDue 0 = true) ∧
      (working.callIsDue 0 = false ∧
        (working.ring 0).filter (fun y => abovePointer (working.trunk 0).pointer y.1) =
          [(4, missing .silent 3)] ++ (5, learned) :: [] ∧
        (∀ y ∈ [((4 : Num), missing .silent 3)], y.2.state = .silent ∧ (working.trunk 0).cycle ≠ 0) ∧
        learned.state = .active ∧ ¬working.capOf learned ≤ learned.held) ∧
      ((lone { learned with held := 24 } 1).ring 0 = [(5, { learned with held := 24 })] ∧
        (lone { learned with held := 24 } 1).capOf { learned with held := 24 } ≤ 24) ∧
      (pickTrunk 0 (lone (missing .silent 3) 1)).2 = none ∧ (lone (missing .silent 3) 1).silentWaits 0 = true ∧
      (lone { learned with held := 24 } 1).silentWaits 0 = false := by
  and_intros <;> decide +kernel

/-- What each of these decides. -/
theorem test_decisions :
    ((workDecision 0 (bursting 1 entry)).trunk 0).activity = .delivering ∧
      ((workDecision 0 (bursting 1 entry)).trunk 0).burst = some 2 ∧
      ((workDecision 0 (lone (missing .silent 3) 1)).trunk 0).txn = some ⟨.poll 5, .waiting, false, none, none⟩ ∧
      ((workDecision 0 (lone (missing .silent 3) 1)).trunk 0).cycle = 0 ∧
      ((workDecision 0 (lone { learned with held := 24 } 1)).trunk 0).activity = .idle ∧
      ((workDecision 0 (lone { learned with held := 24 } 1)).trunk 0).counters.withheld = 1 := by
  and_intros <;> decide +kernel

/-- A store with a number of free blocks. -/
def roomFor (n : Nat) : State := State.reset.setStore { Store.reset with freeBlocks := n }

/-- A store in which all 160 tickets are in use. -/
def noTicket : State :=
  State.reset.setStore
    { Store.reset with tickets := (List.range 160).map fun i => ⟨i, 0, some 5, some 1, .host, 1, 1, [0x2A], 1, some 0⟩, freeBlocks := 352 }

/-- A telegram from station 0005 on trunk 0, with references. -/
def arrived (refs : Nat) : Ticket := ⟨0, 5, some 6, some 1, .trunk 0, 1, 1, [0x2A], refs, some 0⟩

/-- A state that holds it, its source as given. -/
def sourced (st : Station) (refs : Nat) : State :=
  let s := withDir [⟨5, .station st⟩] carrying
  s.setStore { s.store with tickets := [arrived refs], freeBlocks := 511, occ := ⟨⟨1, 0, 0, 0⟩, 0⟩ }

theorem test_hyp_StoreOperations :
    ((roomFor 7).store.freeBlocks < blockCount 240 ∧ ¬(roomFor 8).store.freeBlocks < blockCount 240) ∧
      (1 ≤ noTicket.store.freeBlocks ∧ 160 ≤ noTicket.lowestFree) ∧
      (State.reset.lowestFree < 160 ∧ State.reset.portCap .host < 128 + 1 ∧ 0 + 1 ≤ State.reset.portCap .host) ∧
      (State.reset.setStore { Store.reset with occ := ⟨Quad.all 0, 128⟩ }).portCap .host < 128 + 1 ∧
      (loaded peopled entry).store.ticketLaw ∧
      ((loaded peopled entry).ticket 0 = some parcel ∧ parcel.refs ≤ 1 ∧ parcel.port = .host ∧
        (sourced holding 2).ticket 0 = some (arrived 2) ∧ 1 < (arrived 2).refs) ∧
      ((sourced holding 1).ticket 0 = some (arrived 1) ∧ (arrived 1).port ≠ .host ∧
        (withDir [] (sourced holding 1)).station 5 = none ∧ (sourced holding 1).station 5 = some holding) ∧
      (holding.kind.overdue = none ∧ { holding with kind := .dynamic none false (some .aged) }.kind.overdue = some .aged ∧
        holding.held - (arrived 1).blocks = 0 ∧ (sourced holding 1).capOf holding = 24) ∧
      (24 ≤ { holding with held := 24 }.held ∧ { holding with held := 24 }.held - (arrived 1).blocks < 24 ∧
        { holding with held := 26 }.held - (arrived 1).blocks ≥ 24) := by
  unfold Store.ticketLaw
  and_intros <;> decide +kernel

/-- The last drop: an overdue source without further blocks is removed, counted and reported; a source back below its cap wakes its home;
a low pool that recovers is reported. -/
theorem test_release :
    let s := sourced holding 1
    let r := dropRef 0 (s.setStore { s.store with freeBlocks := 96, low := true })
    (dropRef 0 (sourced { holding with kind := .dynamic (some 1) false (some .aged) } 1)).dir = [] ∧
      (dropRef 0 (sourced { holding with kind := .dynamic (some 1) false (some .aged) } 1)).dirCounters.aged = 1 ∧
      (dropRef 0 (sourced { holding with held := 24 } 1)).wakes.get 0 = true ∧
      (dropRef 0 (sourced { holding with held := 26 } 1)).wakes.get 0 = false ∧
      (r.store.low = false ∧ r.link.pendingNotices.map Notice.fields = [.pool false 97]) := by
  and_intros <;> decide +kernel

/-- `n` notices pending. -/
def noisy (n : Nat) : State :=
  State.reset.modLink fun l => { l with pendingNotices := (List.range n).map fun i => told (BitVec.ofNat 8 i) }

theorem test_hyp_NoticesRaised :
    (32 ≤ (noisy 32).link.pendingNotices.length ∧ (noisy 31).link.pendingNotices.length < 32) ∧
      (noisy 32).params.enable.get (told 0).fields.kind ≠ 0 ∧ (told 0).fields.kind ≠ .started ∧
      (State.reset.setParams { Params.reset with enable := ⟨1, 1, 0, 1, 1, 1, 1, 1, 1⟩ }).params.enable.get
        (told 0).fields.kind = 0 := by
  and_intros <;> decide +kernel

/-- The telegram in class 1 of the HOST egress, with credit. -/
def hosted (s : State) : State :=
  (setFifo .host 1 [{ entry with form := none }] (setFifo (.trunk 0) 1 [] (loaded s entry))).modLink fun l =>
    { l with credit := 3 }

/-- The same with a lifetime of class 1 that it has outlived. -/
def outlived : State :=
  ((hosted State.reset).setParams { Params.reset with lifetime := ⟨0, 100, 0, 0⟩ }).setClock 2000

theorem test_hyp_TransmitterOrder :
    let owing := (awaiting [4]).modLink fun l => { l with resendDue := .afterTimeout, noticeTimer := none }
    let woken := (transmitting (.reply ⟨0x41, 0, []⟩) peopled).setWakes ((Quad.all false).set 0 true)
    ((replying 1).wakes = Quad.all false ∧ (replying 1).link.tx = .free ∧ (replying 1).link.replies = ⟨0x41, 0, []⟩ :: []) ∧
      (transmitting (.reply ⟨0x41, 0, []⟩) State.reset).link.tx ≠ .free ∧
      (owing.link.tx = .free ∧ owing.link.replies = [] ∧ owing.link.stalled = false ∧ owing.link.resendDue ≠ .no ∧
        owing.link.unacked = ⟨told 4, 3⟩ :: []) ∧
      ((noisy 1).link.tx = .free ∧ (noisy 1).link.replies = [] ∧ (noisy 1).link.stalled = false ∧
        (noisy 1).link.resendDue = .no ∧ (noisy 1).link.pendingNotices = told 0 :: [] ∧
        (noisy 1).link.unacked.length < (noisy 1).params.noticeWindow) ∧
      (State.reset.link.replies = [] ∧ State.reset.link.resendDue = .no ∧ State.reset.link.pendingNotices = [] ∧
        State.reset.link.credit = 0 ∧ (stalled [4]).link.stalled = true) ∧
      ((hosted State.reset).link.pendingNotices = [] ∧ 0 < (hosted State.reset).link.credit ∧
        (hostPick (hosted State.reset)).2 = some (1, { entry with form := none }) ∧
        (hostPick (hosted State.reset)).1.wakes = Quad.all false ∧
        (hosted State.reset).stored 0 = some (parcel, ⟨5, 1, [0x2A], 0⟩)) ∧
      ((hosted State.reset).fifo .host 1 = { entry with form := none } :: [] ∧
        (∀ d, (1 : Cls) < d → (hosted State.reset).fifo .host d = []) ∧ (∀ c, State.reset.fifo .host c = []) ∧
        outlived.params.lifetime.get 1 ≠ 0 ∧ outlived.params.lifetime.get 1 < outlived.clock / 10 - 0) ∧
      ((hostPick outlived).2 = none ∧ (hostPick outlived).1.wakes = Quad.all false ∧
        (hostPick outlived).1.link.pendingNotices.length = 1 ∧ (hostPick State.reset).2 = none) ∧
      ((peopled.trunk 0).activity = .idle ∧ ((busyWith .polling (.poll 5) .waiting).trunk 0).activity ≠ .idle) ∧
      (woken.link.tx ≠ .free ∧ woken.wakes = (Quad.all false).set 0 true ∧
        (workDecision 0 (woken.setWakes (Quad.all false))).wakes = Quad.all false) := by
  and_intros <;> decide +kernel

/-- The TELEGRAM of that entry, and the notice of the one that has outlived its lifetime. -/
theorem test_telegram :
    (finish (hosted State.reset)).link.tx =
        .telegram ⟨0x71, 0, [0, 0x00, 0x00, 0x00, 0x05, 0x01, 0x04, 0x2A]⟩ (some 1) ∧
      (finish (hosted State.reset)).link.credit = 2 ∧ (finish (hosted State.reset)).link.telegramSeq = 1 ∧
      (finish outlived).link.tx =
        .notice ⟨0x61, 0, [0, 0x07, 0x00, 0x00, 0x00, 0x00, 0x05, 0x01, 0x01, 0x04]⟩ := by
  and_intros <;> decide +kernel

/-- An egress of trunk 1 at its queue limit. -/
def brimful : State := setFifo (.trunk 1) 1 (List.replicate 48 entry) routing

theorem test_hyp_RoutingChecks :
    (4 ≤ (4 : Byte).toNat ∧ (3 : Byte).toNat < 4) ∧ (routing.entry 0x99 = none ∧ routing.entry 0x11 ≠ none) ∧
      (routing.trunk 2).mode = .survey ∧ (routing.trunk 0).mode ≠ .survey ∧
      ((routing.chooseEgresses (.trunk 0) 0x21).toBool = true ∧
        routing.entries (.trunk 1) < routing.queueLimit (.trunk 1)) ∧
      (routing.entry 0x31 ≠ none ∧ (routing.chooseEgresses (.trunk 2) 0).toBool = true ∧
        routing.chooseEgresses .host 0x31 = .error .noRoute) ∧
      ((brimful.chooseEgresses (.trunk 0) 0x21).toBool = true ∧
        brimful.queueLimit (.trunk 1) ≤ brimful.entries (.trunk 1)) ∧
      (isStationNumber 0x31 = true ∧ routing.station 0x31 = some (homed 2) ∧ routing.station 0x40 = some (homed 3) ∧
        (routing.trunk 3).line = .faulted ∧ routing.station 0x30 = some (fixed 2 true)) ∧
      (routing.station 0x21 = some (homed 1) ∧ (homed 1).home = some 1 ∧ (routing.trunk 1).mode = .carry ∧
        (routing.trunk 1).line = .sound ∧ routing.params.localTurn = 0 ∧ State.reset.params.localTurn ≠ 0) ∧
      (isStationNumber 0x99 = true ∧ routing.station 0x99 = none ∧ routing.params.unknownPolicy = 2 ∧
        State.reset.params.unknownPolicy = 0 ∧
        (State.reset.setParams { Params.reset with unknownPolicy := 1 }).params.unknownPolicy = 1) ∧
      (isGroupNumber 0xFF10 = true ∧ routing.group 0xFF10 = some ⟨⟨false, true, true, true⟩, true⟩ ∧
        routing.group 0xFF11 = none) := by
  and_intros <;> decide +kernel

/-- The telegram's entry in class 1 of trunk 0, for a destination with this entry. -/
def toStation (st : Station) : State := withDir [⟨5, .station st⟩] (loaded peopled entry)

theorem test_hyp_ClassService :
    let s := carrying.modTrunk 0 fun k => { k with egress := ⟨⟨[entry], [], [entry], []⟩, ⟨1, 0, -1, 0⟩⟩ }
    let two := (toStation (homed 1)).modTrunk 1 fun k => { k with mode := .carry }
    ((s.tparams 0).express = 0 ∧ s.fifo (.trunk 0) 3 = [] ∧ s.fifo (.trunk 0) 2 ≠ []) ∧
      (∀ k, s.fifo (.trunk 0) k ≠ [] → (s.trunk 0).egress.balance.get k + ((s.tparams 0).weight.get k : Int) ≤ 2) ∧
      ((∀ k, carrying.fifo (.trunk 0) k = []) ∧ (chooseClass 0 carrying).2 = none) ∧
      ((after (.set 1 [0x0D, 0x00, 0, 0, 0, 1]) State.reset).tparams 0).express ≠ 0 ∧
      (setFifo (.trunk 0) 3 [entry] carrying).fifo (.trunk 0) 3 ≠ [] ∧
      (∀ x ∈ [toStation learned, toStation (missing .silent 3), toStation (homed 1), two],
        (chooseClass 0 x).2 = some 1 ∧ (chooseClass 0 x).1.fifo (.trunk 0) 1 = entry :: [] ∧
          (chooseClass 0 x).1.stored 0 = some (parcel, ⟨5, 1, [0x2A], 0⟩)) ∧
      (outlived.params.lifetime.get 1 ≠ 0 ∧ outlived.params.lifetime.get 1 < outlived.clock / 10 - 0 ∧
        (toStation learned).params.lifetime.get 1 = 0) ∧
      (entry.form = some .deliver ∧ { entry with form := some .bcast }.form ≠ some .deliver) ∧
      ((withDir [] (toStation learned)).station 5 = none ∧ (toStation learned).station 5 = some learned ∧
        (toStation (missing .silent 3)).station 5 = some (missing .silent 3) ∧
        (toStation (homed 1)).station 5 = some (homed 1) ∧ (homed 1).home = some 1) ∧
      (((toStation (homed 1)).trunk 1).mode = .closed ∧ (two.trunk 1).mode = .carry ∧ (two.trunk 1).line = .sound ∧
        parcel.port ≠ .trunk 1 ∧ two.entries (.trunk 1) < two.queueLimit (.trunk 1) ∧
        (setFifo (.trunk 1) 0 (List.replicate 48 entry) two).queueLimit (.trunk 1) ≤
          (setFifo (.trunk 1) 0 (List.replicate 48 entry) two).entries (.trunk 1)) := by
  and_intros <;> decide +kernel

/-- What a pick makes of them: given up as SILENT, as NO_ROUTE, rerouted. -/
theorem test_headChecks :
    let r := pickTrunk 0 (toStation (missing .silent 3))
    let m := pickTrunk 0 ((toStation (homed 1)).modTrunk 1 fun k => { k with mode := .carry })
    (r.2 = none ∧ r.1.ticket 0 = none ∧ (r.1.trunk 0).counters.undelivered = 1 ∧
        r.1.link.pendingNotices.map Notice.fields = [.undelivered 0 0 5 1 .silent (.trunk 0)]) ∧
      (pickTrunk 0 (toStation (homed 1))).1.link.pendingNotices.map Notice.fields =
        [.undelivered 0 0 5 1 .noRoute (.trunk 0)] ∧
      (m.1.fifo (.trunk 1) 1 = [entry] ∧ (m.1.trunk 0).counters.rerouted = 1) := by
  and_intros <;> decide +kernel

theorem test_hyp_KnownCharacters :
    ((State.reset.trunk 0).tx = none ∧ State.reset.link.tx = .free) ∧
      ((after (.pollStart 0) (busyWith .polling (.poll 5) .waiting)).trunk 0).tx = some (pollFrame 5) ∧
      ∀ x ∈ [HostTx.reply (told 4).message, .notice (told 4).message, .telegram (told 4).message none],
        (transmitting x State.reset).link.tx = x ∧ (transmitting x State.reset).hostOut = (told 4).message.bits := by
  and_intros <;> decide +kernel

theorem test_hyp_HostMessageRoundTrip :
    (Instr.send 9 [0, 5, 2]).asMessage = some (0x1A, 9, [0, 5, 2]) ∧ (Instr.send 9 [0, 5, 2]).wellFormed = true ∧
      (Instr.restart 9 (List.replicate 256 0)).wellFormed = true ∧
      (Instr.credit 9 [0x10]).asMessage = some (0x21, 9, [0x10]) := by
  and_intros <;> decide +kernel

theorem test_hyp_StationFrameRoundTrip : (List.replicate 240 (0x55 : Byte)).length ≤ 240 := by decide +kernel

/-- A telegram in an egress, a directory, a notice not yet acknowledged, a transaction, and a command waiting. -/
def lawful : State :=
  (inFlight.modLink fun l => { l with unacked := [⟨told 4, 1⟩], credit := 16 }).setPending [.lineFault 0]

/-- The command's outcome from it is a next state. -/
theorem test_hyp_step : ∃ t, step lawful = .next t := ⟨_, rfl⟩

/-- With `test_hyp_step`, a state that meets the hypotheses of ParametersStayInRange. -/
theorem test_hyp_ParametersStayInRange : lawful.paramLaw := by
  refine ⟨fun r => ?_, rfl⟩
  cases r with
  | trunk t p => cases p with
    | weight k => revert k t; decide +kernel
    | _ => revert t; decide +kernel
  | global p => cases p with
    | lifetime k => revert k; decide +kernel
    | _ => decide +kernel
  | notice k => cases k <;> decide +kernel
  | _ => decide +kernel

theorem test_hyp_LinkAndTransactionLaws : lawful.creditLaw ∧ lawful.noticeLaw ∧ lawful.txnLaw := by
  refine ⟨?_, ⟨?_, ?_⟩, ?_⟩
  · unfold State.creditLaw; decide +kernel
  · decide +kernel
  · decide +kernel
  · unfold State.txnLaw; decide +kernel

/-- The only ticket of `lawful` has number 0, and its one reference is the entry in flight. -/
theorem test_hyp_StoreLaws : lawful.storeLaw ∧ lawful.refLaw ∧ lawful.arrivalLaw := by
  refine ⟨⟨?_, ?_, fun p => ?_⟩, fun n => ?_, fun t x n hx hh => ?_, fun m n h => ?_⟩
  · unfold Store.ticketLaw; decide +kernel
  · decide +kernel
  · cases p with
    | trunk t => revert t; decide +kernel
    | host => decide +kernel
  · cases n with
    | zero =>
      refine ⟨fun h => ?_, fun k h => ?_⟩
      · exact absurd h (by decide +kernel)
      · obtain rfl := Option.some.inj ((by decide +kernel : lawful.ticket 0 = some parcel).symm.trans h)
        decide +kernel
    | succ n => exact ⟨fun _ => rfl, fun k h => by cases h⟩
  · match t with
    | 0 => cases hx; cases hh
    | 1 | 2 | 3 => cases hx
  · cases h

theorem test_hyp_DirectoryLaws : lawful.dirLaw ∧ lawful.numberLaw ∧ lawful.heldLaw := by
  refine ⟨?_, ⟨?_, fun t x n hx hk => ?_⟩, fun n => ?_, ?_⟩
  · unfold State.dirLaw; decide +kernel
  · intro e he
    obtain rfl := List.mem_singleton.mp (show e ∈ [(⟨5, .station learned⟩ : DirEntry)] from he)
    decide +kernel
  · match t with
    | 0 => cases hx; cases hk
    | 1 | 2 | 3 => cases hx
  · have h : sourceBlocks n lawful.store.tickets = 0 := rfl
    rw [h]
    by_cases hn : (5 : Num) = n
    · subst hn; decide +kernel
    · have : lawful.station n = none := by
        unfold State.station State.entry
        rw [show lawful.dir = [⟨5, .station learned⟩] from rfl, List.find?_cons, decide_eq_false hn]
        rfl
      rw [this]
      rfl
  · decide +kernel

theorem test_hyp_EgressLaw : lawful.egressLaw := by
  intro e
  cases e with
  | trunk t => revert t; decide +kernel
  | host => decide +kernel

end Sys2Proof.Tests
end

section
/-!
PROOFS. The start of operation (02 R39, 05 R108, 08 R165): after POWER_ON and RESET_LINE every block but the host link stands at its reset
values, and the host link has no notices but STARTED and those of the FAULTED lines.
-/

namespace Sys2Proof.Machine

/-! ### The end of an event in which no controller was woken -/

theorem nextWake_of_asleep {s : State} (h : s.wakes = Quad.all false) : s.nextWake = none := by
  simp [State.nextWake, h]

theorem runWakes_of_asleep {s : State} (h : s.wakes = Quad.all false) : runWakes s = s := by
  simp [runWakes, runWakesWithin, nextWake_of_asleep h]

theorem finish_of_asleep {s : State} (h : s.wakes = Quad.all false) (h' : (serveLink s).wakes = Quad.all false) :
    finish s = serveLink (serveLink s) := by
  rw [finish, runWakes_of_asleep h, runWakes_of_asleep h']

/-! ### The first sending of a notice -/

/-- The first sending of a notice changes the host link only. -/
theorem startNotice_eq (s : State) : startNotice s = s.setLink (startNotice s).link := by
  unfold startNotice
  split <;> rfl

theorem serveLink_startNotice {s : State} (h : s.link.pendingNotices ≠ []) : serveLink (startNotice s) = startNotice s := by
  unfold startNotice
  split
  · next he => exact absurd he h
  · rfl

/-! ### The notices of the host link -/

/-- The notices that the host has not acknowledged: those pending and those sent. -/
def HostLink.notices (l : HostLink) : List Notice := l.pendingNotices ++ l.unacked.map Unacked.notice

/-- Raising a notice adds none but that one. -/
theorem mem_notices_raise {s : State} {f : NoticeFields} {n : Notice} (h : n ∈ (raise f s).link.notices) :
    n ∈ s.link.notices ∨ n.fields = f := by
  unfold raise at h
  split at h
  · split at h
    · exact .inl h
    · simp only [HostLink.notices, State.modLink_link, List.mem_append, List.mem_singleton] at h ⊢
      obtain (hp | rfl) | hu := h
      · exact .inl (.inl hp)
      · exact .inr rfl
      · exact .inl (.inr hu)
  · exact .inl h

/-- The first sending of a notice moves it from those pending to those sent. -/
theorem mem_notices_startNotice (s : State) (n : Notice) : n ∈ (startNotice s).link.notices ↔ n ∈ s.link.notices := by
  unfold startNotice
  split
  · rfl
  · next h =>
    simp only [HostLink.notices, countLink, State.modLink_link, h, List.map_append, List.map_cons, List.map_nil,
      List.mem_append, List.mem_cons, List.not_mem_nil, or_false]
    tauto

/-! ### The exchange before its first message -/

/-- No controller woken, the transmitter free with nothing else to send than pending notices, the notice window open. -/
structure State.Starting (s : State) : Prop where
  wakes : s.wakes = Quad.all false
  tx : s.link.tx = .free
  replies : s.link.replies = []
  resendDue : s.link.resendDue = .no
  stalled : s.link.stalled = false
  unacked : s.link.unacked = []
  window : 0 < s.params.noticeWindow

theorem afterReset_starting (straps : Straps) (flt : Quad Bool) (s : State) : (afterReset straps flt s).Starting :=
  ⟨rfl, rfl, rfl, rfl, rfl, rfl, (by decide : 0 < 4)⟩

theorem State.Starting.raise {s : State} (h : s.Starting) (f : NoticeFields) : (raise f s).Starting := by
  unfold Machine.raise
  split
  · split <;> exact ⟨h.wakes, h.tx, h.replies, h.resendDue, h.stalled, h.unacked, h.window⟩
  · exact h

/-- The transmitter of a starting exchange takes the oldest pending notice. -/
theorem State.Starting.finish {s : State} (h : s.Starting) (hp : s.link.pendingNotices ≠ []) : finish s = startNotice s := by
  have due : s.noticeDue = true := by
    simp [State.noticeDue, h.stalled, hp, h.unacked, h.window]
  have served : serveLink s = startNotice s := by
    simp [serveLink, h.tx, takeNext, h.replies, due, takeNotice, h.resendDue]
  have asleep : (serveLink s).wakes = Quad.all false := by
    rw [served, startNotice_eq]
    exact h.wakes
  rw [finish_of_asleep h.wakes asleep, served, serveLink_startNotice hp]

theorem pendingNotices_raise_ne_nil {s : State} (f : NoticeFields) (h : s.link.pendingNotices ≠ []) :
    (raise f s).link.pendingNotices ≠ [] := by
  unfold raise
  split
  · split
    · exact h
    · simp
  · exact h

/-! ### The notices of the start of operation -/

/-- The reports of the start of operation: STARTED, then the trunks whose fault input is asserted. -/
def startReports (reason : StartReason) (flt : Quad Bool) : List NoticeFields :=
  .started reason :: (([0, 1, 2, 3] : List TrunkId).filter fun t => flt.get t).map fun t => .line t .faulted

theorem kind_of_mem_startReports {reason : StartReason} {flt : Quad Bool} {f : NoticeFields}
    (h : f ∈ startReports reason flt) : f.kind = .started ∨ f.kind = .line := by
  rcases List.mem_cons.mp h with rfl | h
  · exact .inl rfl
  · obtain ⟨t, -, rfl⟩ := List.mem_map.mp h
    exact .inr rfl

/-- Notices raised one after the other. -/
def raiseAll (fs : List NoticeFields) (s : State) : State := fs.foldl (fun v f => raise f v) s

theorem raiseAll_eq (fs : List NoticeFields) (s : State) : raiseAll fs s = s.setLink (raiseAll fs s).link := by
  induction fs generalizing s with
  | nil => rfl
  | cons f fs ih =>
    calc raiseAll (f :: fs) s
      _ = (raise f s).setLink (raiseAll (f :: fs) s).link := ih (raise f s)
      _ = (s.setLink (raise f s).link).setLink (raiseAll (f :: fs) s).link := by rw [← raise_eq]
      _ = s.setLink (raiseAll (f :: fs) s).link := rfl

theorem State.Starting.raiseAll {s : State} (h : s.Starting) (fs : List NoticeFields) : (raiseAll fs s).Starting := by
  induction fs generalizing s with
  | nil => exact h
  | cons f fs ih => exact ih (h.raise f)

theorem pendingNotices_raiseAll_ne_nil {s : State} (fs : List NoticeFields) (h : s.link.pendingNotices ≠ []) :
    (raiseAll fs s).link.pendingNotices ≠ [] := by
  induction fs generalizing s with
  | nil => exact h
  | cons f fs ih => exact ih (pendingNotices_raise_ne_nil f h)

theorem mem_notices_raiseAll {fs : List NoticeFields} {s : State} {n : Notice} (h : n ∈ (raiseAll fs s).link.notices) :
    n ∈ s.link.notices ∨ n.fields ∈ fs := by
  induction fs generalizing s with
  | nil => exact .inl h
  | cons f fs ih =>
    rcases ih h with h | h
    · exact (mem_notices_raise h).imp_right fun e => List.mem_cons.mpr (.inl e)
    · exact .inr (List.mem_cons_of_mem _ h)

/-- The start of operation: the blocks reset, the reports raised, the event ended. -/
theorem startUp_eq_finish (reason : StartReason) (straps : Straps) (flt : Quad Bool) (s : State) :
    startUp reason straps flt s = finish (raiseAll (startReports reason flt) (afterReset straps flt s)) := by
  rw [startUp, raiseAll, startReports, List.foldl_cons, List.foldl_map, List.foldl_filter]
  rfl

/-- STARTED cannot be off and finds room, so a report is pending (10 R192). -/
theorem pendingNotices_startReports_ne_nil (reason : StartReason) (straps : Straps) (flt : Quad Bool) (s : State) :
    (raiseAll (startReports reason flt) (afterReset straps flt s)).link.pendingNotices ≠ [] := by
  have started : (raise (.started reason) (afterReset straps flt s)).link.pendingNotices ≠ [] := by
    simp [raise, noticeOn, NoticeFields.kind, afterReset, State.reset, HostLink.reset, Config.noticeRoom]
  exact pendingNotices_raiseAll_ne_nil (s := raise (.started reason) _) _ started

/-- Within the start of operation the transmitter takes the first of the reports. -/
theorem startUp_eq_startNotice (reason : StartReason) (straps : Straps) (flt : Quad Bool) (s : State) :
    startUp reason straps flt s = startNotice (raiseAll (startReports reason flt) (afterReset straps flt s)) := by
  rw [startUp_eq_finish]
  exact ((afterReset_starting straps flt s).raiseAll _).finish (pendingNotices_startReports_ne_nil reason straps flt s)

/-- The start of operation leaves every block but the host link at its reset values. -/
theorem startUp_eq_setLink (reason : StartReason) (straps : Straps) (flt : Quad Bool) (s : State) :
    startUp reason straps flt s = (afterReset straps flt s).setLink (startUp reason straps flt s).link := by
  rw [startUp_eq_startNotice, startNotice_eq, raiseAll_eq]
  rfl

theorem mem_notices_startUp {reason : StartReason} {straps : Straps} {flt : Quad Bool} {s : State} {n : Notice}
    (h : n ∈ (startUp reason straps flt s).link.notices) : n.fields ∈ startReports reason flt := by
  rw [startUp_eq_startNotice, mem_notices_startNotice] at h
  exact (mem_notices_raiseAll h).resolve_left List.not_mem_nil

/-- POWER_ON and RESET_LINE start the operation. -/
theorem exec_eq_startUp {c : Instr} {straps : Straps} {flt : Quad Bool} (s : State)
    (h : c = .powerOn straps flt ∨ c = .resetLine straps flt) :
    ∃ reason, exec c s = .next (startUp reason straps flt s) := by
  rcases h with rfl | rfl
  · exact ⟨.power, rfl⟩
  · exact ⟨.resetLine, rfl⟩

/-- Settles O3: start-up changes the host link alone, so the directory's part is read off the reset values; every notice is one of
the start's reports. -/
theorem directoryAfterReset : Obligations.DirectoryAfterReset := by
  intro straps flt s c hc
  obtain ⟨reason, hexec⟩ := exec_eq_startUp s hc
  refine ⟨_, hexec, ?_⟩
  have notices : ∀ n ∈ (startUp reason straps flt s).link.notices, n.fields.kind = .started ∨ n.fields.kind = .line :=
    fun n hn => kind_of_mem_startReports (mem_notices_startUp hn)
  rw [startUp_eq_setLink]
  have now : ((afterReset straps flt s).setLink (startUp reason straps flt s).link).timebase = 0 := Nat.zero_div _
  rw [now]
  exact ⟨rfl, rfl, rfl, rfl, rfl, rfl, rfl, rfl, notices⟩

end Sys2Proof.Machine
end

section
/-!
PROOFS. GROUP (02 R36, 09 R173): the code of a member set, and the edit of the directory with and without an entry of the number.
-/

namespace Sys2Proof.Machine

/-! ### The code of a member set (09 section 9.1) -/

/-- The byte that five membership bits spell: trunk 0 to trunk 3, then HOST. -/
def memberByte (b0 b1 b2 b3 host : Bool) : Byte :=
  (if b0 then 1 else 0) + (if b1 then 2 else 0) + (if b2 then 4 else 0) + (if b3 then 8 else 0) + (if host then 16 else 0)

/-- A byte whose three upper bits are zero is the byte of its five lower bits. -/
theorem eq_memberByte_of_bits : ∀ b : Byte, b &&& 0xE0 = 0x00 →
    b = memberByte (b.getLsbD 0) (b.getLsbD 1) (b.getLsbD 2) (b.getLsbD 3) (b.getLsbD 4) := by
  decide +kernel

/-- The byte of five bits has those bits, and its three upper bits are zero. -/
theorem bits_memberByte : ∀ b0 b1 b2 b3 host : Bool, let b := memberByte b0 b1 b2 b3 host
    b &&& 0xE0 = 0x00 ∧ b.getLsbD 0 = b0 ∧ b.getLsbD 1 = b1 ∧ b.getLsbD 2 = b2 ∧ b.getLsbD 3 = b3 ∧ b.getLsbD 4 = host := by
  decide

/-- A byte is read as a member set exactly when it is not zero and is the byte of that set's bits. -/
theorem parseMembers_eq_some (b : Byte) (m : Members) :
    parseMembers b = some m ↔
      b ≠ 0 ∧ b = memberByte m.trunks.a0 m.trunks.a1 m.trunks.a2 m.trunks.a3 m.host := by
  constructor
  · intro h
    simp only [parseMembers, Option.ite_none_right_eq_some, Option.some.injEq] at h
    obtain ⟨⟨hb, hupper⟩, rfl⟩ := h
    exact ⟨hb, eq_memberByte_of_bits b hupper⟩
  · obtain ⟨⟨b0, b1, b2, b3⟩, host⟩ := m
    rintro ⟨hb, rfl⟩
    obtain ⟨hupper, h0, h1, h2, h3, h4⟩ := bits_memberByte b0 b1 b2 b3 host
    rw [parseMembers, if_pos ⟨hb, hupper⟩, h0, h1, h2, h3, h4]

/-! ### Room in the directory (02 R13) -/

theorem dirFull_iff (s : State) : s.dirFull = true ↔ 192 ≤ s.dir.length := decide_eq_true_iff

theorem placesFull_iff (s : State) : s.placesFull = true ↔ 64 ≤ s.placedCount := decide_eq_true_iff

/-- A PINNED or GROUP entry has no room when one of the two capacities is reached. -/
theorem noRoom_iff (s : State) : (s.dirFull || s.placesFull) = true ↔ 192 ≤ s.dir.length ∨ 64 ≤ s.placedCount := by
  rw [Bool.or_eq_true, dirFull_iff, placesFull_iff]

/-! ### The edit of the directory -/

section Edit

variable {s : State} {n : Num} (m : Members)

theorem group_of_entry_none (h : s.entry n = none) : s.group n = none := by
  rw [State.group, h]
  rfl

theorem group_of_entry_group {g : Members} (h : s.entry n = some ⟨n, .group g⟩) : s.group n = some g := by
  rw [State.group, h]
  rfl

/-- On a GROUP entry the member set is replaced, whatever the capacities are. -/
theorem groupEntry_replaced {old : Members} (h : s.entry n = some ⟨n, .group old⟩) :
    groupEntry n m s = (s.setDir (putInto ⟨n, .group m⟩ s.dir), .ok .replaced) := by
  simp only [groupEntry, group_of_entry_group h]

/-- Without an entry and without room nothing changes. -/
theorem groupEntry_full (h : s.entry n = none) (hfull : 192 ≤ s.dir.length ∨ 64 ≤ s.placedCount) :
    groupEntry n m s = (s, .error .full) := by
  simp only [groupEntry, group_of_entry_none h]
  exact if_pos ((noRoom_iff s).mpr hfull)

/-- Without an entry and with room the entry is created. -/
theorem groupEntry_created (h : s.entry n = none) (hdir : s.dir.length < 192) (hplaces : s.placedCount < 64) :
    groupEntry n m s = (s.setDir (putInto ⟨n, .group m⟩ s.dir), .ok .created) := by
  simp only [groupEntry, group_of_entry_none h]
  exact if_neg fun hfull => by have := (noRoom_iff s).mp hfull; omega

end Edit

/-! ### The request -/

section Request

variable {s u : State} {seq hi lo mb : Byte} {m : Members}

/-- A GROUP with a group number and a member set is the edit of the directory. -/
theorem runGroup_eq_editAnswer (hn : isGroupNumber (numOfBytes hi lo) = true) (hm : parseMembers mb = some m) :
    runGroup [hi, lo, mb] s = editAnswer hi lo (groupEntry (numOfBytes hi lo) m s) := by
  simp only [runGroup, hn, if_true, hm]

/-- An edit that is made is answered DONE with its result code. -/
theorem exec_group_done {r : EditResult} (ht : s.takes 0x16 seq [hi, lo, mb])
    (hn : isGroupNumber (numOfBytes hi lo) = true) (hm : parseMembers mb = some m)
    (hedit : groupEntry (numOfBytes hi lo) m (countIn s) = (u, .ok r)) (hr : u.link.restart = none) :
    exec (.group seq [hi, lo, mb]) s =
      .next (answered 0x16 seq [hi, lo, mb] ⟨0x41, seq, [hi, lo, r.code]⟩ u) :=
  request_done ht (by rw [runGroup_eq_editAnswer hn hm, hedit]; rfl) hr

/-- An edit that finds no room is answered FAILED with FULL. -/
theorem exec_group_full (ht : s.takes 0x16 seq [hi, lo, mb])
    (hn : isGroupNumber (numOfBytes hi lo) = true) (hm : parseMembers mb = some m)
    (hedit : groupEntry (numOfBytes hi lo) m (countIn s) = (countIn s, .error .full)) :
    exec (.group seq [hi, lo, mb]) s =
      .next (answered 0x16 seq [hi, lo, mb] ⟨0x42, seq, [0x08, 0x00]⟩ (countIn s)) :=
  request_failed_same (e := .full) ht (by rw [runGroup_eq_editAnswer hn hm, hedit]; rfl)

end Request

/-- Settles O17: the three outcomes of `groupEntry` on the counted state, whose directory is that of `s`, each carried through the
request's end. -/
theorem groupEdits : Obligations.GroupEdits := by
  refine ⟨parseMembers_eq_some, fun seq hi lo mb s m ht hn hm => ?_⟩
  have running : ∀ d, ((countIn s).setDir d).link.restart = none := fun _ => ht.2.2.2.2
  refine ⟨fun hnone hfull => ?_, fun hnone hdir hplaces => ?_, fun old hold => ?_, fun k => ?_⟩
  · exact exec_group_full ht hn hm (groupEntry_full m hnone hfull)
  · exact exec_group_done (r := .created) ht hn hm (groupEntry_created m hnone hdir hplaces) (running _)
  · exact exec_group_done (r := .replaced) ht hn hm (groupEntry_replaced m hold) (running _)
  · exact entry_setDir_putInto (countIn s) ⟨numOfBytes hi lo, .group m⟩ k

end Sys2Proof.Machine
end

section
/-!
PROOFS. The telegram store at the start of operation (03 R58): the store and the parameters stand at their reset values, and the store
has reported nothing.
-/

namespace Sys2Proof.Machine

/-! ### The blocks that the start of operation resets -/

section StartUp

variable (reason : StartReason) (straps : Straps) (flt : Quad Bool) (s : State)

theorem startUp_store : (startUp reason straps flt s).store = .reset := by
  rw [startUp_eq_setLink, State.setLink_store]
  rfl

theorem startUp_params : (startUp reason straps flt s).params = .reset := by
  rw [startUp_eq_setLink, State.setLink_params]
  rfl

end StartUp

/-! ### The values of a reset store and of the reset parameters -/

theorem ticket_of_store_reset {s : State} (h : s.store = .reset) (n : Nat) : s.ticket n = none := by
  rw [State.ticket, h]
  rfl

theorem occ_get_store_reset (p : Port) : Store.reset.occ.get p = 0 := by
  cases p with
  | trunk t => exact Quad.get_all 0 t
  | host => rfl

theorem tparams_of_params_reset {s : State} (h : s.params = .reset) (t : TrunkId) : s.tparams t = .reset := by
  rw [State.tparams, h]
  exact Quad.get_all _ t

/-- PORT_CAP by default: 192 blocks for a trunk, 128 for HOST (09 R167). -/
theorem portCap_of_params_reset {s : State} (h : s.params = .reset) :
    (∀ t, s.portCap (.trunk t) = 192) ∧ s.portCap .host = 128 := by
  refine ⟨fun t => ?_, ?_⟩
  · exact congrArg TrunkParams.portCap (tparams_of_params_reset h t)
  · exact congrArg Params.hostPortCap h

/-! ### The store's notices -/

theorem kind_ne_pool_of_mem_startReports {reason : StartReason} {flt : Quad Bool} {f : NoticeFields}
    (h : f ∈ startReports reason flt) : f.kind ≠ .pool := by
  rcases kind_of_mem_startReports h with hk | hk <;> simp [hk]

/-- Settles O4: start-up leaves the store and the parameters at their reset values, of which the statement reads each field; its
notices are the start's reports, of which none is the store's. -/
theorem storeAfterReset : Obligations.StoreAfterReset := by
  intro straps flt s c hc
  obtain ⟨reason, hexec⟩ := exec_eq_startUp s hc
  have store := startUp_store reason straps flt s
  have params := startUp_params reason straps flt s
  obtain ⟨trunkCap, hostCap⟩ := portCap_of_params_reset params
  refine ⟨_, hexec, ticket_of_store_reset store, ?_⟩
  rw [store, params]
  exact ⟨rfl, rfl, occ_get_store_reset, rfl, rfl, rfl, rfl, rfl, rfl, trunkCap, hostCap, rfl,
    fun n hn => kind_ne_pool_of_mem_startReports (mem_notices_startUp hn)⟩

end Sys2Proof.Machine
end

section
/-!
PROOFS. The egresses at the start of operation (07 R145): every trunk's record stands at its reset values, the HOST egress is empty, and
the host link sends a notice, so that no entry is in flight at HOST either.
-/

namespace Sys2Proof.Machine

/-! ### Egresses without entries, and without one in flight -/

theorem entries_of_fifo_nil {s : State} {e : Port} (h : ∀ c, s.fifo e c = []) : s.entries e = 0 := by
  simp [State.entries, h]

/-- A trunk whose controller is idle has no entry in flight. -/
theorem inFlight_of_idle {s : State} {t : TrunkId} (h : (s.trunk t).activity = .idle) : s.inFlight (.trunk t) = none := by
  simp only [State.inFlight, h]

/-- HOST has no entry in flight while a notice is sent. -/
theorem inFlight_of_notice {s : State} {m : Message} (h : s.link.tx = .notice m) : s.inFlight .host = none := by
  simp only [State.inFlight, h]

/-! ### The blocks that the egresses stand in -/

/-- The transmitter sends the oldest pending notice. -/
theorem startNotice_tx {s : State} (h : s.link.pendingNotices ≠ []) : ∃ m, (startNotice s).link.tx = .notice m := by
  unfold startNotice
  split
  · next hnil => exact absurd hnil h
  · next n _ _ => exact ⟨n.message, rfl⟩

theorem afterReset_trunk (straps : Straps) (flt : Quad Bool) (s : State) (t : TrunkId) :
    (afterReset straps flt s).trunk t = .reset (lineAt (flt.get t)) := by
  match t with
  | 0 | 1 | 2 | 3 => rfl

section StartUp

variable (reason : StartReason) (straps : Straps) (flt : Quad Bool) (s : State)

theorem startUp_trunk (t : TrunkId) : (startUp reason straps flt s).trunk t = .reset (lineAt (flt.get t)) := by
  rw [startUp_eq_setLink, State.setLink_trunk, afterReset_trunk]

theorem startUp_hostEgress : (startUp reason straps flt s).hostEgress = Quad.all [] := by
  rw [startUp_eq_setLink, State.setLink_hostEgress]
  rfl

theorem startUp_tx : ∃ m, (startUp reason straps flt s).link.tx = .notice m := by
  rw [startUp_eq_startNotice]
  exact startNotice_tx (pendingNotices_startReports_ne_nil reason straps flt s)

theorem startUp_fifo (e : Port) (c : Cls) : (startUp reason straps flt s).fifo e c = [] := by
  cases e with
  | trunk t =>
    rw [State.fifo, startUp_trunk]
    exact Quad.get_all [] c
  | host =>
    rw [State.fifo, startUp_hostEgress]
    exact Quad.get_all [] c

theorem startUp_inFlight (e : Port) : (startUp reason straps flt s).inFlight e = none := by
  cases e with
  | trunk t => exact inFlight_of_idle (by rw [startUp_trunk]; rfl)
  | host =>
    obtain ⟨m, hm⟩ := startUp_tx reason straps flt s
    exact inFlight_of_notice hm

theorem startUp_balance (t : TrunkId) (c : Cls) : ((startUp reason straps flt s).trunk t).egress.balance.get c = 0 := by
  rw [startUp_trunk]
  exact Quad.get_all 0 c

end StartUp

/-! ### The queue parameters by default (09 R167) -/

theorem queueLimit_of_params_reset {s : State} (h : s.params = .reset) (e : Port) : s.queueLimit e = 48 := by
  cases e with
  | trunk t => exact congrArg TrunkParams.queueLimit (tparams_of_params_reset h t)
  | host => exact congrArg Params.hostQueueLimit h

/-- Settles O5: start-up leaves the trunks' records, the HOST egress and the parameters at their reset values; at HOST the transmitter
sends the first of the start's notices, and so no TELEGRAM. -/
theorem egressesAfterReset : Obligations.EgressesAfterReset := by
  intro straps flt s c hc
  obtain ⟨reason, hexec⟩ := exec_eq_startUp s hc
  have params := startUp_params reason straps flt s
  have fifo := startUp_fifo reason straps flt s
  refine ⟨_, hexec, fifo, fun e => entries_of_fifo_nil (fifo e), startUp_inFlight reason straps flt s,
    startUp_balance reason straps flt s, fun t => queueLimit_of_params_reset params _, queueLimit_of_params_reset params _,
    fun t => ?_, fun t => ?_⟩
  · rw [tparams_of_params_reset params]
    exact ⟨rfl, rfl⟩
  · rw [startUp_trunk]
    exact ⟨rfl, rfl, rfl, rfl⟩

end Sys2Proof.Machine
end

section
/-!
PROOFS. HELLO (08 R162): what its execution answers and changes for each body, and the DONE body's figures, read after the fresh flag's
effect.
-/

namespace Sys2Proof.Machine

/-! ### The run of a HELLO, body by body -/

section Run

variable {b : Byte} {body : List Byte} (s : State)

/-- A byte over 01 is no flag. -/
theorem parseFlag_of_one_lt (h : 1 < b.toNat) : parseFlag b = none := by
  have h0 : b ≠ 0x00 := by rintro rfl; exact absurd h (by decide)
  have h1 : b ≠ 0x01 := by rintro rfl; exact absurd h (by decide)
  rw [parseFlag, if_neg h0, if_neg h1]

theorem runHello_keeping : runHello [0x00] s = (s, .done s.helloBody) := rfl

theorem runHello_fresh : runHello [0x01] s = (freshStart s, .done (freshStart s).helloBody) := rfl

theorem runHello_of_one_lt (h : 1 < b.toNat) : runHello [b] s = (s, .failed .outOfRange) := by
  simp only [runHello, parseFlag_of_one_lt h]

theorem runHello_of_length_ne_one (h : body.length ≠ 1) : runHello body s = (s, .failed .badBody) := by
  match body, h with
  | [], _ => rfl
  | [_], h => exact absurd rfl h
  | _ :: _ :: _, _ => rfl

end Run

/-! ### The figures of the DONE body -/

/-- The DONE body in the order of R162's table: part code, revision, trunks, the directory's capacities and the entries present, the
store's blocks and the free ones, tickets, credit, no RESTART in progress, and the timebase in milliseconds. -/
theorem helloBody_eq (s : State) : s.helloBody =
    [0x4E, 0x34, 0x31, 0x36, 0x01, 4, 192, 64, byteOf s.dir.length, byteOf s.placedCount, 0x02, 0x00] ++
      bytes16 s.store.freeBlocks ++ [160, byteOf s.link.credit, 0] ++ bytes48 (s.clock / 10) := rfl

/-- Counting a message changes none of the figures. -/
theorem helloBody_countIn (s : State) : (countIn s).helloBody = s.helloBody := rfl

/-! ### The request -/

section Request

variable {s : State} {seq b : Byte} {body : List Byte}

theorem exec_hello_badBody (ht : s.takes 0x11 seq body) (h : body.length ≠ 1) :
    exec (.hello seq body) s = .next (answered 0x11 seq body ⟨0x42, seq, [0x02, 0x00]⟩ (countIn s)) :=
  request_failed_same (e := .badBody) ht (runHello_of_length_ne_one _ h)

theorem exec_hello_outOfRange (ht : s.takes 0x11 seq [b]) (h : 1 < b.toNat) :
    exec (.hello seq [b]) s = .next (answered 0x11 seq [b] ⟨0x42, seq, [0x04, 0x00]⟩ (countIn s)) :=
  request_failed_same (e := .outOfRange) ht (runHello_of_one_lt _ h)

theorem exec_hello_keeping (ht : s.takes 0x11 seq [0x00]) :
    exec (.hello seq [0x00]) s = .next (answered 0x11 seq [0x00] ⟨0x41, seq, s.helloBody⟩ (countIn s)) := by
  rw [← helloBody_countIn]
  exact request_done_same ht (runHello_keeping _)

/-- The fresh flag's effect is on the host link's notices, credit and sequence, and leaves the RESTART as it is. -/
theorem exec_hello_fresh (ht : s.takes 0x11 seq [0x01]) :
    exec (.hello seq [0x01]) s =
      .next (answered 0x11 seq [0x01] ⟨0x41, seq, (freshStart (countIn s)).helloBody⟩ (freshStart (countIn s))) := by
  have ⟨_, _, _, _, hrestart⟩ := ht
  exact request_done ht (runHello_fresh _) hrestart

end Request

/-- Settles O12: each body's run carried through the request's end; the DONE body is read off the state as the fresh flag leaves it. -/
theorem helloAnswers : Obligations.HelloAnswers := by
  refine ⟨fun seq body s ht h => exec_hello_badBody ht h, fun seq b s ht => ⟨?_, ?_, exec_hello_outOfRange ht⟩⟩
  · rintro rfl
    rw [exec_hello_keeping ht, helloBody_eq]
  · rintro rfl
    rw [exec_hello_fresh ht, helloBody_eq]
    rfl

end Sys2Proof.Machine
end

section
/-!
PROOFS. LOOKUP (09 R175, R176): the answer with and without an entry of the number, and the bytes of an entry's record.
-/

namespace Sys2Proof.Machine

/-! ### The codes in a record -/

theorem Members.code_eq_memberByte (m : Members) :
    m.code = memberByte m.trunks.a0 m.trunks.a1 m.trunks.a2 m.trunks.a3 m.host := by
  have bits : ∀ b0 b1 b2 b3 host : Bool,
      bit b0 0 ||| bit b1 1 ||| bit b2 2 ||| bit b3 3 ||| bit host 4 = memberByte b0 b1 b2 b3 host := by decide
  exact bits _ _ _ _ _

theorem StationState.code_eq (x : StationState) : x.code = if x = .active then 0x00 else 0x01 := by
  cases x <;> rfl

theorem homeCode_eq (home : Option TrunkId) :
    homeCode home = if home = none then 0xFF else byteOf ((home.map Fin.val).getD 0) := by
  cases home <;> rfl

/-- The byte of an entry's overdue cause, zero without one. -/
def overdueByte : Option Cause → Byte
  | some c => c.code
  | none => 0x00

theorem overdueByte_eq (due : Option Cause) : overdueByte due =
    if due = none then 0x00 else if due = some .aged then 0x01 else if due = some .closed then 0x02 else 0x03 := by
  cases due with
  | none => rfl
  | some c => cases c <;> rfl

/-! ### The marks and flags of a station -/

/-- The bits of the flags byte that every station has: resync pending, outbound mark, inbound mark present and its value. -/
def marksByte (resync outMark : Bool) (inMark : Option Bool) : Byte :=
  (if resync then 2 else 0) + (if outMark then 8 else 0) +
    (if inMark = some true then 48 else if inMark = some false then 16 else 0)

/-- The flags are a sum, because each stands at a bit of its own. -/
theorem Station.flags_eq (st : Station) : st.flags = (if st.kind.seen then 1 else 0) + (if st.kind.surveyPass then 4 else 0) +
    marksByte st.resync st.outMark st.inMark := by
  have bits : ∀ (seen resync pass outMark : Bool) (inMark : Option Bool),
      bit seen 0 ||| bit resync 1 ||| bit pass 2 ||| bit outMark 3 ||| bit inMark.isSome 4 ||| bit (inMark.getD false) 5 =
        (if seen then 1 else 0) + (if pass then 4 else 0) + marksByte resync outMark inMark := by decide
  exact bits _ _ _ _ _

theorem Station.flags_of_dynamic {st : Station} {home : Option TrunkId} {seen : Bool} {due : Option Cause}
    (h : st.kind = .dynamic home seen due) :
    st.flags = (if seen then 1 else 0) + marksByte st.resync st.outMark st.inMark := by
  rw [Station.flags_eq, h]
  exact congrArg (· + _) (BitVec.add_zero _)

theorem Station.flags_of_pinned {st : Station} {home : TrunkId} {cap : Option Nat} {pass : Bool}
    (h : st.kind = .pinned home cap pass) :
    st.flags = (if pass then 4 else 0) + marksByte st.resync st.outMark st.inMark := by
  rw [Station.flags_eq, h]
  exact congrArg (· + _) (BitVec.zero_add _)

/-! ### The record of an entry (09 R175) -/

theorem DirEntry.record_length (e : DirEntry) : e.record.length = 17 := by
  obtain ⟨n, body⟩ := e
  cases body <;> rfl

theorem record_group (n : Num) (m : Members) : (DirEntry.mk n (.group m)).record =
    numBytes n ++ [0x02, 0x00, memberByte m.trunks.a0 m.trunks.a1 m.trunks.a2 m.trunks.a3 m.host,
      0, 0, 0, 0, 0, 0, 0, 0, 0, 0, 0, 0] := by
  rw [← Members.code_eq_memberByte]
  rfl

theorem record_station (n : Num) (st : Station) : (DirEntry.mk n (.station st)).record =
    numBytes n ++ [st.kind.code, homeCode st.kind.home, 0x00, st.state.code, st.flags, overdueByte st.kind.overdue,
      byteOf st.missed] ++ bytes16 st.held ++
      byteOf (st.kind.cap.getD 0) :: (st.profile :: numBytes st.accepted ++ numBytes st.delivered) := rfl

theorem record_dynamic (n : Num) {st : Station} {home : Option TrunkId} {seen : Bool} {due : Option Cause}
    (h : st.kind = .dynamic home seen due) : (DirEntry.mk n (.station st)).record =
      numBytes n ++ [0x00, homeCode home, 0x00, st.state.code,
        (if seen then 1 else 0) + marksByte st.resync st.outMark st.inMark, overdueByte due, byteOf st.missed] ++
        bytes16 st.held ++ 0x00 :: (st.profile :: numBytes st.accepted ++ numBytes st.delivered) := by
  rw [record_station, Station.flags_of_dynamic h, h]
  rfl

theorem record_pinned (n : Num) {st : Station} {home : TrunkId} {cap : Option Nat} {pass : Bool}
    (h : st.kind = .pinned home cap pass) : (DirEntry.mk n (.station st)).record =
      numBytes n ++ [0x01, byteOf home.val, 0x00, st.state.code,
        (if pass then 4 else 0) + marksByte st.resync st.outMark st.inMark, 0x00, byteOf st.missed] ++
        bytes16 st.held ++ byteOf (cap.getD 0) :: (st.profile :: numBytes st.accepted ++ numBytes st.delivered) := by
  rw [record_station, Station.flags_of_pinned h, h]
  rfl

/-! ### The request -/

section Request

variable {s : State} {seq hi lo : Byte} {e : DirEntry}

theorem runLookup_of_entry (h : s.entry (numOfBytes hi lo) = some e) : runLookup [hi, lo] s = (s, .done e.record) := by
  simp only [runLookup, h]

theorem runLookup_of_none (h : s.entry (numOfBytes hi lo) = none) : runLookup [hi, lo] s = (s, .failed .notFound) := by
  simp only [runLookup, h]

theorem exec_lookup_of_entry (ht : s.takes 0x18 seq [hi, lo]) (h : s.entry (numOfBytes hi lo) = some e) :
    exec (.lookup seq [hi, lo]) s = .next (answered 0x18 seq [hi, lo] ⟨0x41, seq, e.record⟩ (countIn s)) :=
  request_done_same ht (runLookup_of_entry (s := countIn s) h)

theorem exec_lookup_of_none (ht : s.takes 0x18 seq [hi, lo]) (h : s.entry (numOfBytes hi lo) = none) :
    exec (.lookup seq [hi, lo]) s = .next (answered 0x18 seq [hi, lo] ⟨0x42, seq, [0x06, 0x00]⟩ (countIn s)) :=
  request_failed_same (e := .notFound) ht (runLookup_of_none (s := countIn s) h)

end Request

/-- Settles O19: a LOOKUP reads the counted state, whose directory is that of `s`; the record's bytes kind by kind, its codes in the
form of R175's table. -/
theorem lookupAnswers : Obligations.LookupAnswers := by
  refine ⟨fun seq hi lo s ht => ⟨fun e he => ⟨e.record_length, exec_lookup_of_entry ht he⟩, exec_lookup_of_none ht, rfl⟩,
    record_group, fun n st => ⟨fun home seen due hk => ?_, fun home cap pass hk => ?_⟩⟩
  · rw [record_dynamic n hk, homeCode_eq, StationState.code_eq, overdueByte_eq]
    rfl
  · rw [record_pinned n hk, StationState.code_eq]
    rfl

end Sys2Proof.Machine
end


section
/-!
PROOFS. The laws that every move keeps (09 R167, 08 R156 to R158, 05 R83, 06 R127): each is proved once for the acts of `Move`, and holds of
every step by `step_preserve`.
-/

namespace Sys2Proof.Machine

/-! ### One value of the parameter table written (09 R168) -/

theorem TrunkParams.read_write (p : TrunkParams) (v : Nat) (r q : TrunkParam) :
    (p.write v r).read q = if q = r then v else p.read q := by
  cases r with
  | weight c =>
    cases q with
    | weight d => simp [TrunkParams.write, TrunkParams.read, Quad.get_set]
    | _ => rfl
  | _ => cases q <;> rfl

theorem NoticeEnable.get_write (e : NoticeEnable) (v : Nat) (k l : NoticeKind) :
    (e.write v k).get l = if l = k then v else e.get l := by
  cases k <;> cases l <;> rfl

/-- A value written is read back, and no other value of the table is changed. -/
theorem Params.read_write (p : Params) (v : Nat) (r q : ParamRef) :
    (p.write v r).read q = if q = r then v else p.read q := by
  cases r with
  | trunk t a =>
    cases q with
    | trunk u b =>
      by_cases h : u = t
      · subst h
        simp [Params.write, Params.read, TrunkParams.read_write]
      · simp [Params.write, Params.read, Quad.get_set_of_ne _ _ h, h]
    | global b => cases b <;> rfl
    | _ => rfl
  | notice k =>
    cases q with
    | notice l => simp [Params.write, Params.read, NoticeEnable.get_write]
    | global b => cases b <;> rfl
    | _ => rfl
  | global a =>
    cases q with
    | global b =>
      cases a with
      | lifetime c =>
        cases b with
        | lifetime d => simp [Params.write, Params.read, Quad.get_set]
        | _ => rfl
      | _ => cases b <;> rfl
    | _ => cases a <;> rfl
  | hostQueueLimit =>
    cases q with
    | global b => cases b <;> rfl
    | _ => rfl
  | hostPortCap =>
    cases q with
    | global b => cases b <;> rfl
    | _ => rfl

theorem within_iff (lo hi v : Nat) : within lo hi v = true ↔ lo ≤ v ∧ v ≤ hi := by
  simp [within]

/-! ### The parameter law -/

section ParamLaw

variable {s s' : State}

/-- A move leaves the parameters, writes one value without obstacle, or sets them to their defaults. -/
theorem Move.params_cases (h : Move s s') :
    s'.params = s.params ∨ s'.params = .reset ∨
      ∃ v r, r.inRange v = true ∧ s.setObstacle r v = none ∧ s'.params = s.params.write v r := by
  cases h with
  | service h => exact .inl h.kept.2.2.2.2.2.1
  | params v r hv ho => exact .inr (.inr ⟨v, r, hv, ho, rfl⟩)
  | reset straps flt => exact .inr (.inl rfl)
  | _ => exact .inl rfl

theorem paramLaw_congr (h : s'.params = s.params) (hs : s.paramLaw) : s'.paramLaw := by
  unfold State.paramLaw
  rw [h]
  exact hs

theorem TrunkParams.reset_inRange (q : TrunkParam) : q.inRange (TrunkParams.reset.read q) = true := by
  cases q with
  | weight c => revert c; decide
  | _ => rfl

theorem Params.reset_inRange (r : ParamRef) : r.inRange (Params.reset.read r) = true := by
  cases r with
  | trunk t q =>
    have reset : Params.reset.trunks.get t = .reset := Quad.get_all _ _
    rw [Params.read, reset]
    exact TrunkParams.reset_inRange q
  | global q =>
    cases q with
    | lifetime c => revert c; decide
    | _ => rfl
  | notice k => cases k <;> rfl
  | _ => rfl

theorem paramLaw_of_reset (h : s.params = .reset) : s.paramLaw := by
  unfold State.paramLaw
  rw [h]
  exact ⟨Params.reset_inRange, rfl⟩

/-- A value in range without obstacle keeps STARTED on: the obstacle is what guards it. -/
theorem paramLaw_write {v : Nat} {r : ParamRef} (hr : r.inRange v = true) (ho : s.setObstacle r v = none)
    (h : s'.params = s.params.write v r) (hs : s.paramLaw) : s'.paramLaw := by
  unfold State.paramLaw
  rw [h]
  refine ⟨fun q => ?_, ?_⟩
  · rw [Params.read_write]
    split
    · next e => rwa [e]
    · exact hs.1 q
  · have startedRead : (s.params.write v r).enable.started = (s.params.write v r).read (.notice .started) := rfl
    rw [startedRead, Params.read_write]
    split
    · next e =>
      subst e
      have nonzero : v ≠ 0 := fun h0 => by simp [State.setObstacle, h0] at ho
      have range := (within_iff 0 1 v).mp hr
      omega
    · exact hs.2

theorem Move.paramLaw (h : Move s s') (hs : s.paramLaw) : s'.paramLaw := by
  obtain same | reset | ⟨v, r, hr, ho, written⟩ := h.params_cases
  · exact paramLaw_congr same hs
  · exact paramLaw_of_reset reset
  · exact paramLaw_write hr ho written hs

end ParamLaw

/-- Settles O56: the parameters change in a write of a value in range, or to their defaults, and in no other move. -/
theorem parametersStayInRange : Obligations.ParametersStayInRange := fun _ _ hs h =>
  step_preserve (fun _ _ h => h) (fun _ _ h => h.paramLaw) hs h

/-! ### The laws of the host link -/

section LinkLaws

variable {s s' : State}

/-- NOTICE_WINDOW is at most 8 while the parameters lie in their ranges (09 R167). -/
theorem noticeWindow_le (h : s.paramLaw) : s.params.noticeWindow ≤ 8 := by
  exact ((within_iff 1 8 _).mp (h.1 (.global .noticeWindow))).2

theorem Move.link_laws (h : Move s s') (hp : s.paramLaw) (hc : s.creditLaw) (hn : s.noticeLaw) :
    s'.creditLaw ∧ s'.noticeLaw := by
  have kept : s'.link = s.link → s'.creditLaw ∧ s'.noticeLaw := fun e => by
    simp only [State.creditLaw, State.noticeLaw, e]
    exact ⟨hc, hn⟩
  cases h with
  | service h =>
    have l := h.linkKept
    have window := noticeWindow_le hp
    exact ⟨l.credit.trans hc, l.pending.trans (max_le hn.1 le_rfl), l.unacked.trans (max_le hn.2 window)⟩
  | link f h => exact ⟨h.credit.trans (max_le hc le_rfl), h.pending.trans hn.1, h.unacked.trans hn.2⟩
  | reset straps flt => exact ⟨Nat.zero_le _, Nat.zero_le _, Nat.zero_le _⟩
  | _ => exact kept rfl

theorem setFifo_txn (e : Port) (c : Cls) (q : List QEntry) (t : TrunkId) :
    ((setFifo e c q s).trunk t).txn = (s.trunk t).txn :=
  congrArg Prod.snd (setFifo_doing e c q t)

theorem setFifo_listening (e : Port) (c : Cls) (q : List QEntry) (t : TrunkId) :
    ((setFifo e c q s).trunk t).listening = (s.trunk t).listening := by
  cases e with
  | host => rfl
  | trunk u =>
    simp only [setFifo, State.modTrunk_trunk]
    split
    · next h =>
      subst h
      rfl
    · rfl

/-- A move leaves no transaction on a trunk that does not listen. -/
theorem Move.txnLaw (h : Move s s') (hs : s.txnLaw) : s'.txnLaw := by
  have kept : (∀ t, s'.trunk t = s.trunk t) → s'.txnLaw := fun e t => by
    rw [e]
    exact hs t
  intro t
  cases h with
  | service h =>
    cases h with
    | trunk u f h =>
      rw [State.modTrunk_trunk]
      split
      · next e =>
        subst e
        intro hl
        have listening : (f (s.trunk t)).listening = (s.trunk t).listening := by
          simp only [Trunk.listening, h.mode, h.line]
        rw [listening] at hl
        by_contra hx
        rcases h.txn (Option.isSome_iff_ne_none.mpr hx) with old | on
        · rw [hs t hl] at old
          cases old
        · rw [hl] at on
          cases on
      · exact hs t
    | fifo e c q _ => rw [setFifo_listening, setFifo_txn]; exact hs t
    | append e c q _ => rw [setFifo_listening, setFifo_txn]; exact hs t
    | _ => exact kept (fun _ => rfl) t
  | trunk u f h =>
    rw [State.modTrunk_trunk]
    split
    · next e =>
      subst e
      intro hl
      by_contra hx
      rcases h.txn (Option.isSome_iff_ne_none.mpr hx) with on | ⟨off, old⟩
      · rw [hl] at on
        cases on
      · rw [hs t off] at old
        cases old
    · exact hs t
  | reset straps flt =>
    rw [afterReset_trunk]
    exact fun _ => rfl
  | _ => exact kept (fun _ => rfl) t

end LinkLaws

/-- Settles O57: by the acts of `Move`; that NOTICE_WINDOW is at most 8 bounds the unacknowledged notices. -/
theorem linkAndTransactionLaws : Obligations.LinkAndTransactionLaws := by
  refine ⟨fun s s' hp hc hn h => ?_, fun _ _ hs h => step_preserve (fun _ _ h => h) (fun _ _ h => h.txnLaw) hs h⟩
  have laws : s'.paramLaw ∧ s'.creditLaw ∧ s'.noticeLaw :=
    step_preserve (P := fun u => u.paramLaw ∧ u.creditLaw ∧ u.noticeLaw) (fun _ _ h => h)
      (fun _ _ h ⟨hp, hc, hn⟩ => ⟨h.paramLaw hp, h.link_laws hp hc hn⟩) ⟨hp, hc, hn⟩ h
  exact laws.2

/-! ### The law of the egresses -/

section EgressLaw

variable {s s' : State}

/-- QUEUE_LIMIT is at most 64 on every egress while the parameters lie in their ranges (09 R167). -/
theorem queueLimit_le (h : s.paramLaw) (e : Port) : s.queueLimit e ≤ 64 := by
  have limit : within 4 64 (s.queueLimit e) = true := by
    cases e with
    | trunk t => exact h.1 (.trunk t .queueLimit)
    | host => exact h.1 .hostQueueLimit
  exact ((within_iff _ _ _).mp limit).2

theorem entries_le_of_fifo_le (e : Port) (h : ∀ c, (s'.fifo e c).length ≤ (s.fifo e c).length) : s'.entries e ≤ s.entries e := by
  have h0 := h 0
  have h1 := h 1
  have h2 := h 2
  have h3 := h 3
  unfold State.entries
  omega

/-- One FIFO replaced: what the egress gains is what that FIFO gains. -/
theorem entries_setFifo (e : Port) (c : Cls) (q : List QEntry) :
    (setFifo e c q s).entries e + (s.fifo e c).length = s.entries e + q.length := by
  unfold State.entries
  simp only [fifo_setFifo, true_and]
  match c with
  | 0 | 1 | 2 | 3 => simp; omega

theorem Move.egressLaw (h : Move s s') (hp : s.paramLaw) (hs : s.egressLaw) : s'.egressLaw := by
  intro e
  have shrinks : (∀ c, (s'.fifo e c).length ≤ (s.fifo e c).length) → s'.entries e ≤ 64 := fun h =>
    (entries_le_of_fifo_le e h).trans (hs e)
  have kept : s'.trunks = s.trunks → s'.hostEgress = s.hostEgress → s'.entries e ≤ 64 := fun ht hh =>
    shrinks fun c => by rw [fifo_of_trunks ht hh]
  cases h with
  | service h =>
    cases h with
    | trunk u f h => exact shrinks fun c => by rw [fifo_modTrunk _ h.fifo]
    | fifo f c q hq =>
      refine shrinks fun d => ?_
      rw [fifo_setFifo]
      split
      · next hd =>
        obtain ⟨rfl, rfl⟩ := hd
        exact hq
      · exact le_rfl
    | append f c q room =>
      by_cases hf : e = f
      · subst hf
        have grown := entries_setFifo (s := s) e c (s.fifo e c ++ [q])
        have limit := queueLimit_le hp e
        simp only [State.hasRoom, decide_eq_true_eq] at room
        simp only [List.length_append, List.length_cons, List.length_nil] at grown
        omega
      · rw [entries_setFifo_of_ne _ hf]
        exact hs e
    | _ => exact kept rfl rfl
  | trunk u f h =>
    refine shrinks fun c => ?_
    cases e with
    | host => exact le_rfl
    | trunk t =>
      simp only [State.fifo, State.modTrunk_trunk]
      split
      · next ht =>
        subst ht
        exact h.fifo c
      · exact le_rfl
  | clearHost =>
    refine shrinks fun c => ?_
    cases e with
    | host => simp [State.fifo]
    | trunk t => exact le_rfl
  | reset straps flt =>
    refine (entries_of_fifo_nil fun c => ?_).trans_le (Nat.zero_le _)
    cases e with
    | host => exact Quad.get_all _ _
    | trunk t =>
      simp only [State.fifo, afterReset_trunk]
      exact Quad.get_all _ _
  | _ => exact kept rfl rfl

end EgressLaw

/-- Settles O60: an append asks for room below QUEUE_LIMIT, which is at most 64; no other move lengthens a FIFO. -/
theorem egressLaw : Obligations.EgressLaw := by
  intro s s' hp hs h
  have laws : s'.paramLaw ∧ s'.egressLaw :=
    step_preserve (P := fun u => u.paramLaw ∧ u.egressLaw) (fun _ _ h => h)
      (fun _ _ h ⟨hp, hs⟩ => ⟨h.paramLaw hp, h.egressLaw hp hs⟩) ⟨hp, hs⟩ h
  exact laws.2

end Sys2Proof.Machine
end


section
/-!
PROOFS. What the laws of references, arrivals, numbers and held counts (03 R42, R44, R48, R50, 02 R12, R26) allow a command to do, said
once: a deed is one act after which these laws can be stated again. Between two acts of a command an entry may have left its FIFO with its
reference not yet dropped (a debt), and one port's reservation may be in the unit's hands instead of in that port's record.
-/

namespace Sys2Proof.Machine

/-! ### What the laws read -/

/-- Whether an entry is a station's. -/
def DirEntry.isStation (e : DirEntry) : Bool :=
  match e.body with
  | .station _ => true
  | .group _ => false

/-- What the laws read of a transaction: its kind and what it holds of a reservation. -/
def Txn.arrival (x : Txn) : TxnKind × Option Held := (x.kind, x.held)

/-- What the laws read of trunk `t`'s transaction. -/
def State.arriving (s : State) (t : TrunkId) : Option (TxnKind × Option Held) := (s.trunk t).txn.map Txn.arrival

/-- A change that none of the laws reads. -/
structure Calm (s s' : State) : Prop where
  tickets : s'.store.tickets = s.store.tickets
  named : ∀ n, s'.named n = s.named n
  arriving : ∀ t, s'.arriving t = s.arriving t
  rx : s'.link.rx = s.link.rx
  sorts : ∀ e' ∈ s'.dir, ∃ e ∈ s.dir, e'.num = e.num ∧ e'.isStation = e.isStation
  held : ∀ n, (s'.station n).map Station.held = (s.station n).map Station.held

theorem named_congr {s s' : State} (h : ∀ e c, s'.fifo e c = s.fifo e c) (n : Nat) : s'.named n = s.named n := by
  simp only [State.named, State.namedAt, h]

theorem station_congr {s s' : State} (h : s'.dir = s.dir) (n : Num) : s'.station n = s.station n := by
  unfold State.station State.entry
  rw [h]

/-- A change that leaves the tickets, the FIFOs, the transactions, the receiver and the directory is calm. -/
theorem Calm.of_same {s s' : State} (tickets : s'.store.tickets = s.store.tickets)
    (fifo : ∀ e c, s'.fifo e c = s.fifo e c) (arriving : ∀ t, s'.arriving t = s.arriving t)
    (rx : s'.link.rx = s.link.rx) (dir : s'.dir = s.dir) : Calm s s' where
  tickets := tickets
  named := named_congr fifo
  arriving := arriving
  rx := rx
  sorts e he := ⟨e, dir ▸ he, rfl, rfl⟩
  held n := by rw [station_congr dir]

section CalmActs

variable (s : State)

theorem calm_setClock (v : Nat) : Calm s (s.setClock v) := .of_same rfl (fun e _ => by cases e <;> rfl) (fun _ => rfl) rfl rfl

theorem calm_setFree (v : Nat) : Calm s (s.setFree v) := .of_same rfl (fun e _ => by cases e <;> rfl) (fun _ => rfl) rfl rfl

theorem calm_setFltPins (v : Quad Bool) : Calm s (s.setFltPins v) :=
  .of_same rfl (fun e _ => by cases e <;> rfl) (fun _ => rfl) rfl rfl

theorem calm_setInReset (v : Bool) : Calm s (s.setInReset v) :=
  .of_same rfl (fun e _ => by cases e <;> rfl) (fun _ => rfl) rfl rfl

theorem calm_setParams (v : Params) : Calm s (s.setParams v) :=
  .of_same rfl (fun e _ => by cases e <;> rfl) (fun _ => rfl) rfl rfl

theorem calm_setAging (v : MsTimer) : Calm s (s.setAging v) :=
  .of_same rfl (fun e _ => by cases e <;> rfl) (fun _ => rfl) rfl rfl

theorem calm_setWakes (v : Quad Bool) : Calm s (s.setWakes v) :=
  .of_same rfl (fun e _ => by cases e <;> rfl) (fun _ => rfl) rfl rfl

theorem calm_setDirCounters (v : DirCounters) : Calm s (s.setDirCounters v) :=
  .of_same rfl (fun e _ => by cases e <;> rfl) (fun _ => rfl) rfl rfl

theorem calm_setPending (v : List Instr) : Calm s (s.setPending v) :=
  .of_same rfl (fun e _ => by cases e <;> rfl) (fun _ => rfl) rfl rfl

theorem calm_setStore (v : Store) (h : v.tickets = s.store.tickets) : Calm s (s.setStore v) :=
  .of_same h (fun e _ => by cases e <;> rfl) (fun _ => rfl) rfl rfl

theorem calm_setLink (v : HostLink) (h : v.rx = s.link.rx) : Calm s (s.setLink v) :=
  .of_same rfl (fun e _ => by cases e <;> rfl) (fun _ => rfl) h rfl

theorem calm_modLink (f : HostLink → HostLink) (h : (f s.link).rx = s.link.rx) : Calm s (s.modLink f) :=
  calm_setLink s (f s.link) h

theorem arriving_modTrunk {s : State} {t : TrunkId} {f : Trunk → Trunk}
    (h : (f (s.trunk t)).txn.map Txn.arrival = (s.trunk t).txn.map Txn.arrival) (u : TrunkId) :
    (s.modTrunk t f).arriving u = s.arriving u := by
  unfold State.arriving
  rw [State.modTrunk_trunk]
  split
  · next hu =>
    subst hu
    exact h
  · rfl

theorem calm_modTrunk (t : TrunkId) (f : Trunk → Trunk)
    (hf : (f (s.trunk t)).egress.fifo = (s.trunk t).egress.fifo)
    (hx : (f (s.trunk t)).txn.map Txn.arrival = (s.trunk t).txn.map Txn.arrival) : Calm s (s.modTrunk t f) :=
  .of_same rfl (fun e c => fifo_modTrunk s hf e c) (arriving_modTrunk hx) rfl rfl

theorem isStation_of_station {s : State} {n : Num} {st : Station} (h : s.station n = some st) :
    ∃ e ∈ s.dir, e.num = n ∧ e.isStation = true := by
  have he := entry_of_station s h
  exact ⟨_, List.mem_of_find?_eq_some he, rfl, rfl⟩

/-- A station rewritten with the same held blocks. -/
theorem calm_putStation {n : Num} {st st' : Station} (h : s.station n = some st) (hh : st'.held = st.held) :
    Calm s (putStation n st' s) where
  tickets := rfl
  named _ := rfl
  arriving _ := rfl
  rx := rfl
  sorts e he := by
    rcases mem_putInto he with rfl | he
    · obtain ⟨x, hx, hn, hs⟩ := isStation_of_station h
      exact ⟨x, hx, hn.symm, hs.symm⟩
    · exact ⟨e, he, rfl, rfl⟩
  held m := by
    rw [station_putStation]
    split
    · next hm =>
      subst hm
      simp [h, hh]
    · rfl

end CalmActs

/-! ### Deeds -/

/-- The exchange between two acts of a command: the tickets that are still owed a dropped reference, and the port whose reservation is in
hand, with the ticket granted and its source, if it holds one. -/
structure Cfg where
  s : State
  debts : List Nat
  hand : Option (Port × Option (Nat × Num))

/-- Port `p`'s own record of its reservation is not read. -/
def Cfg.out (c : Cfg) (p : Port) : Prop := ∃ h, c.hand = some (p, h)

/-- What a port has in hand after a reservation asked for source `m`. -/
def Held.inHand (m : Num) : Held → Option (Nat × Num)
  | .granted n => some (n, m)
  | .failed _ => none

/-- Trunk `t`'s transaction is a POLL of station `n`. -/
def State.polling (s : State) (t : TrunkId) (n : Num) : Prop := ∃ x, (s.trunk t).txn = some x ∧ x.kind = .poll n

/-- Ticket `n`, where it is in use, has the destination and the class that R48 writes. -/
def State.written (s : State) (n : Nat) : Prop :=
  ∀ k, s.ticket n = some k → k.dest.isSome = true ∧ ∃ b : Byte, k.cls = some b ∧ b.toNat < 4

/-- One act. -/
inductive Deed : Cfg → Cfg → Prop
  | calm {s s' : State} (D : List Nat) (o : Option (Port × Option (Nat × Num))) (h : Calm s s') : Deed ⟨s, D, o⟩ ⟨s', D, o⟩
  /-- A FIFO rewritten; the entries it loses become debts, those it gains pay them. -/
  | fifo (s : State) (D D' : List Nat) (o : Option (Port × Option (Nat × Num))) (e : Port) (c : Cls) (q : List QEntry)
      (h : ∀ n, namedIn n q + D'.count n = namedIn n (s.fifo e c) + D.count n) : Deed ⟨s, D, o⟩ ⟨setFifo e c q s, D', o⟩
  /-- A debt paid. -/
  | drop (s : State) (n : Nat) (D : List Nat) (o : Option (Port × Option (Nat × Num))) :
      Deed ⟨s, n :: D, o⟩ ⟨dropRef n s, D, o⟩
  /-- A reservation granted, the ticket in hand; on a trunk, for the station that its POLL addresses. -/
  | grant (s : State) (D : List Nat) (p : Port) (m : Num) (length : Nat) (h : s.reserveFailure p length = none)
      (hm : ∀ t, p = .trunk t → s.polling t m) :
      Deed ⟨s, D, some (p, none)⟩
        ⟨s.setStore (s.store.grant s.lowestFree p m length), D, some (p, some (s.lowestFree, m))⟩
  | fill (s : State) (D : List Nat) (p : Port) (n : Nat) (m : Num) (dest : Num) (cls : Byte) (data : List Byte) :
      Deed ⟨s, D, some (p, some (n, m))⟩ ⟨fillTicket n dest cls data s, D, some (p, some (n, m))⟩
  | release (s : State) (D : List Nat) (p : Port) (n : Nat) (m : Num) :
      Deed ⟨s, D, some (p, some (n, m))⟩ ⟨releaseFilling n s, D, some (p, none)⟩
  /-- The telegram in hand accepted. -/
  | accept (s : State) (D : List Nat) (p : Port) (n : Nat) (m : Num) (mark : Bool) (dest : Num) (cls : Byte) (c : Cls)
      (needs : List Need) (hw : s.written n) (hr : s.route p m dest cls = .ok (c, needs)) :
      Deed ⟨s, D, some (p, some (n, m))⟩ ⟨(routeArrival p m mark n dest cls s).1, D, some (p, none)⟩
  /-- What a trunk's transaction was granted taken in hand; the transaction is a POLL of the ticket's source. -/
  | takeTrunk (s : State) (D : List Nat) (t : TrunkId) (x : Txn) (n : Nat) (m : Num) (hx : (s.trunk t).txn = some x)
      (hh : x.held = some (.granted n)) (hm : ∀ m', x.kind = .poll m' → m' = m) :
      Deed ⟨s, D, none⟩ ⟨s, D, some (.trunk t, some (n, m))⟩
  | takeHost (s : State) (D : List Nat) (b n : Nat) (m : Num) (hx : s.link.rx = .collecting b (some (.granted n))) :
      Deed ⟨s, D, none⟩ ⟨s, D, some (.host, some (n, m))⟩
  | takeNone (s : State) (D : List Nat) (p : Port) : Deed ⟨s, D, none⟩ ⟨s, D, some (p, none)⟩
  /-- A trunk's record read again: it holds what was in hand, or no grant. -/
  | backTrunk (s : State) (D : List Nat) (t : TrunkId) (h : Option (Nat × Num))
      (hb : ∀ x n, (s.trunk t).txn = some x → x.held = some (.granted n) → ∃ m, x.kind = .poll m ∧ h = some (n, m)) :
      Deed ⟨s, D, some (.trunk t, h)⟩ ⟨s, D, none⟩
  | backHost (s : State) (D : List Nat) (h : Option (Nat × Num))
      (hb : ∀ b n, s.link.rx = .collecting b (some (.granted n)) → ∃ m, h = some (n, m)) :
      Deed ⟨s, D, some (.host, h)⟩ ⟨s, D, none⟩
  /-- A trunk's transaction changed; one that holds a grant is the port's in hand, and a POLL addresses the station it did or one with
  an entry. -/
  | txn (s : State) (D : List Nat) (o : Option (Port × Option (Nat × Num))) (t : TrunkId) (f : Trunk → Trunk)
      (hf : (f (s.trunk t)).egress.fifo = (s.trunk t).egress.fifo)
      (hh : ∀ x n, (f (s.trunk t)).txn = some x → x.held = some (.granted n) → ∃ h, o = some (.trunk t, h))
      (hk : ∀ x m, (f (s.trunk t)).txn = some x → x.kind = .poll m →
        (∃ y, (s.trunk t).txn = some y ∧ y.kind = .poll m) ∨ ∃ e ∈ s.dir, e.num = m ∧ e.isStation = true) :
      Deed ⟨s, D, o⟩ ⟨s.modTrunk t f, D, o⟩
  | rx (s : State) (D : List Nat) (o : Option (Port × Option (Nat × Num))) (f : HostLink → HostLink)
      (hh : ∀ b n, (f s.link).rx = .collecting b (some (.granted n)) → ∃ h, o = some (.host, h)) :
      Deed ⟨s, D, o⟩ ⟨s.modLink f, D, o⟩
  /-- A station's entry made. -/
  | station (s : State) (D : List Nat) (o : Option (Port × Option (Nat × Num))) (n : Num) (st : Station)
      (hn : isStationNumber n = true) (hs : s.station n = none) (hh : st.held = 0) : Deed ⟨s, D, o⟩ ⟨putStation n st s, D, o⟩
  | group (s : State) (D : List Nat) (o : Option (Port × Option (Nat × Num))) (n : Num) (m : Members)
      (hn : isGroupNumber n = true) : Deed ⟨s, D, o⟩ ⟨s.setDir (putInto ⟨n, .group m⟩ s.dir), D, o⟩
  | remove (s : State) (D : List Nat) (o : Option (Port × Option (Nat × Num))) (n : Num)
      (h : ∀ st, s.station n = some st → st.held = 0) : Deed ⟨s, D, o⟩ ⟨dropEntry n s, D, o⟩
  | restart (s : State) : Deed ⟨s, [], none⟩ ⟨takeRestart false s, [], none⟩
  | reset (s : State) (straps : Straps) (flt : Quad Bool) : Deed ⟨s, [], none⟩ ⟨afterReset straps flt s, [], none⟩

/-- A chain of deeds. -/
inductive Deeds : Cfg → Cfg → Prop
  | refl (c : Cfg) : Deeds c c
  | tail {c d e : Cfg} (h : Deeds c d) (h1 : Deed d e) : Deeds c e

theorem Deed.once {c d : Cfg} (h : Deed c d) : Deeds c d := .tail (.refl c) h

theorem Deeds.trans {c d e : Cfg} (h : Deeds c d) (h1 : Deeds d e) : Deeds c e := by
  induction h1 with
  | refl => exact h
  | tail _ h2 ih => exact .tail ih h2

/-- A predicate that every deed keeps is kept by a chain of deeds. -/
theorem Deeds.preserve {P : Cfg → Prop} (hP : ∀ c d, Deed c d → P c → P d) {c d : Cfg} (h : Deeds c d) (hc : P c) : P d := by
  induction h with
  | refl => exact hc
  | tail _ h1 ih => exact hP _ _ h1 ih

/-- An operation made of deeds whatever is owed and in hand. -/
def Keeps (s s' : State) : Prop := ∀ D o, Deeds ⟨s, D, o⟩ ⟨s', D, o⟩

/-- An operation made of deeds where nothing is owed and nothing in hand. -/
def Runs (s s' : State) : Prop := Deeds ⟨s, [], none⟩ ⟨s', [], none⟩

theorem Keeps.refl (s : State) : Keeps s s := fun _ _ => .refl _

theorem Keeps.trans {s t u : State} (h : Keeps s t) (h1 : Keeps t u) : Keeps s u := fun D o => (h D o).trans (h1 D o)

theorem Keeps.runs {s s' : State} (h : Keeps s s') : Runs s s' := h [] none

theorem Runs.refl (s : State) : Runs s s := Deeds.refl _

theorem Runs.trans {s t u : State} (h : Runs s t) (h1 : Runs t u) : Runs s u := Deeds.trans h h1

theorem Calm.keeps {s s' : State} (h : Calm s s') : Keeps s s' := fun D o => (Deed.calm D o h).once

end Sys2Proof.Machine
end


section
/-!
PROOFS. The shared operations, from the raising of a notice to the end of an event, as chains of deeds.
-/

namespace Sys2Proof.Machine

section Calm

variable (s : State)

/-! ### Operations that the laws do not read -/

theorem raise_calm (f : NoticeFields) : Calm s (raise f s) := by
  rw [raise_eq]
  exact calm_setLink _ _ (raise_services s f).link.rx

theorem wake_calm (t : TrunkId) : Calm s (wake t s) := by
  rw [wake_eq]
  exact calm_setWakes _ _

theorem wakeHome_calm (h : Option TrunkId) : Calm s (wakeHome h s) := by
  rw [wakeHome_eq]
  exact calm_setWakes _ _

theorem wakeAll_calm : Calm s (wakeAll s) := by
  rw [wakeAll_eq]
  exact calm_setWakes _ _

theorem countTrunk_calm (t : TrunkId) (f : TrunkCounters → TrunkCounters) : Calm s (countTrunk t f s) :=
  calm_modTrunk _ _ _ rfl rfl

theorem countLink_calm (f : LinkCounters → LinkCounters) : Calm s (countLink f s) := calm_modLink _ _ rfl

theorem countDir_calm (f : DirCounters → DirCounters) : Calm s (countDir f s) := calm_setDirCounters _ _

theorem wakePort_calm (e : Port) : Calm s (wakePort e s) := by
  cases e with
  | trunk t => exact wake_calm _ _
  | host => exact calm_setWakes s s.wakes

theorem reach_calm (d : Nat) : Calm s (reach d s) := calm_setClock _ _

theorem testLow_keeps : Keeps s (testLow s) := by
  unfold testLow
  split
  · exact (calm_setStore s { s.store with low := true } rfl).keeps.trans (raise_calm _ _).keeps
  · exact .refl _

theorem testRecovered_keeps : Keeps s (testRecovered s) := by
  unfold testRecovered
  split
  · exact (calm_setStore s { s.store with low := false } rfl).keeps.trans (raise_calm _ _).keeps
  · exact .refl _

theorem countFailure_keeps (r : Reason) : Keeps s (countFailure r s) := by
  cases r
  case pool | tickets | portLimit =>
    exact Calm.keeps (.of_same rfl (fun e _ => by cases e <;> rfl) (fun _ => rfl) rfl rfl)
  all_goals exact .refl _

end Calm

section Directory

variable (s : State)

/-! ### The directory -/

theorem heard_keeps (t : TrunkId) (n : Num) : Keeps s (heard t n s) := by
  unfold heard
  split
  · exact .refl _
  · next st h =>
    split
    · have written := (calm_putStation s h (st' := { st with missed := 0, state := .active, kind := st.kind.heard }) rfl).keeps
      simp only
      split
      · exact written.trans ((raise_calm _ _).keeps.trans (wake_calm _ _).keeps)
      · exact written
    · exact .refl _

theorem missed_keeps (t : TrunkId) (n : Num) : Keeps s (missed t n s) := by
  unfold missed
  split
  · exact .refl _
  · next st h =>
    split
    · split
      · exact (calm_putStation s h (by rfl)).keeps.trans ((raise_calm _ _).keeps.trans (wake_calm _ _).keeps)
      · exact (calm_putStation s h (by rfl)).keeps
    · exact .refl _

theorem setResync_keeps (t : TrunkId) (n : Num) : Keeps s (setResync t n s) := by
  unfold setResync
  split
  · exact .refl _
  · next st h =>
    split
    · exact (calm_putStation s h (by rfl)).keeps
    · exact .refl _

theorem acknowledged_keeps (t : TrunkId) (n : Num) : Keeps s (acknowledged t n s) := by
  unfold acknowledged
  split
  · exact .refl _
  · next st h =>
    split
    · exact (calm_putStation s h (by rfl)).keeps.trans (heard_keeps _ _ _)
    · exact .refl _

theorem dropEntry_keeps {n : Num} (h : ∀ st, s.station n = some st → st.held = 0) : Keeps s (dropEntry n s) :=
  fun D o => (Deed.remove s D o n h).once

/-- A station without held blocks removed. -/
theorem removeStation_keeps {n : Num} {st : Station} (hs : s.station n = some st) (hh : st.held = 0) (c : Cause) :
    Keeps s (removeStation n st c s) := by
  unfold removeStation
  have gone : Keeps s (raise (.gone n c) (dropEntry n s)) :=
    (dropEntry_keeps s fun st' h => by rw [hs] at h; cases h; exact hh).trans (raise_calm _ _).keeps
  simp only
  split
  · exact (gone.trans (countDir_calm _ _).keeps).trans (wakeHome_calm _ _).keeps
  · exact gone.trans (wakeHome_calm _ _).keeps

theorem scanEntry_keeps (n : Num) : Keeps s (scanEntry n s) := by
  unfold scanEntry
  split
  · exact .refl _
  · next st h =>
    split
    · exact .refl _
    · split
      · exact (calm_putStation s h (by rfl)).keeps
      · split
        · next hh => exact removeStation_keeps s h hh _
        · split
          · exact (calm_putStation s h (by rfl)).keeps
          · exact .refl _

theorem closeEntry_keeps (t : TrunkId) (n : Num) : Keeps s (closeEntry t n s) := by
  unfold closeEntry
  split
  · exact .refl _
  · next st h =>
    split
    · split
      · split
        · next hh =>
          exact (dropEntry_keeps s fun st' h' => by rw [h] at h'; cases h'; exact hh).trans (raise_calm _ _).keeps
        · exact (calm_putStation s h (by rfl)).keeps
      · have written := (calm_putStation s h (st' := { st with missed := Config.missLimit, state := .silent }) rfl).keeps
        simp only
        split
        · exact written.trans (raise_calm _ _).keeps
        · exact written
    · exact .refl _

theorem foldl_keeps {α : Type} (f : State → α → State) (h : ∀ s a, Keeps s (f s a)) (l : List α) (s : State) :
    Keeps s (l.foldl f s) := by
  induction l generalizing s with
  | nil => exact .refl _
  | cons a l ih => exact (h s a).trans (ih _)

theorem agingScan_keeps : Keeps s (agingScan s) := foldl_keeps _ (fun s n => scanEntry_keeps s n) _ _

theorem closingEffects_keeps (t : TrunkId) : Keeps s (closingEffects t s) :=
  foldl_keeps _ (fun s n => closeEntry_keeps s t n) _ _

end Directory

section Egress

variable (s : State)

/-! ### The egresses -/

/-- A FIFO rewritten with entries that name the same tickets. -/
theorem setFifo_keeps {e : Port} {c : Cls} {q : List QEntry} (h : ∀ n, namedIn n q = namedIn n (s.fifo e c)) :
    Keeps s (setFifo e c q s) :=
  fun D o => (Deed.fifo s D D o e c q fun n => by rw [h]).once

theorem namedIn_same {q q' : QEntry} (h : q'.ticket = q.ticket) (n : Nat) : namedIn n [q'] = namedIn n [q] := by
  simp only [namedIn, List.filter_cons, List.filter_nil, h]
  split <;> rfl

theorem namedIn_append (n : Nat) (l r : List QEntry) : namedIn n (l ++ r) = namedIn n l + namedIn n r := by
  simp [namedIn]

theorem count_cons (n : Nat) (q : QEntry) (D : List Nat) : (q.ticket :: D).count n = namedIn n [q] + D.count n := by
  simp only [List.count_cons, namedIn, List.filter_cons, List.filter_nil, beq_iff_eq, decide_eq_true_eq]
  split <;> (simp; try omega)

theorem count_map (n : Nat) (l : List QEntry) (D : List Nat) :
    (l.map QEntry.ticket ++ D).count n = namedIn n l + D.count n := by
  induction l with
  | nil => simp [namedIn]
  | cons q l ih => rw [List.map_cons, List.cons_append, count_cons, ih, namedIn_cons n q l, Nat.add_assoc]

variable (D : List Nat) (o : Option (Port × Option (Nat × Num)))

/-- The entries of a FIFO but those that stay become debts. -/
theorem setFifo_deeds {e : Port} {c : Cls} {l keep : List QEntry} (h : ∀ n, namedIn n keep + namedIn n l = namedIn n (s.fifo e c)) :
    Deeds ⟨s, D, o⟩ ⟨setFifo e c keep s, l.map QEntry.ticket ++ D, o⟩ :=
  (Deed.fifo s D _ o e c keep fun n => by rw [count_map]; have := h n; omega).once

theorem popHead_deeds {e : Port} {c : Cls} {q : QEntry} {qs : List QEntry} (h : s.fifo e c = q :: qs) :
    Deeds ⟨s, D, o⟩ ⟨popHead e c s, q.ticket :: D, o⟩ := by
  refine (Deed.fifo s D _ o e c _ fun n => ?_).once
  rw [count_cons, h, namedIn_cons n q qs]
  simp only [List.tail_cons]
  omega

theorem dropRef_deeds (n : Nat) : Deeds ⟨s, n :: D, o⟩ ⟨dropRef n s, D, o⟩ := (Deed.drop s n D o).once

theorem resyncAfter_keeps (t : TrunkId) (q : QEntry) : Keeps s (resyncAfter t q s) := by
  unfold resyncAfter
  split
  · split
    · exact setResync_keeps _ _ _
    · exact .refl _
  · exact .refl _

theorem flushedEntry_deeds (t : TrunkId) (q : QEntry) : Deeds ⟨s, q.ticket :: D, o⟩ ⟨flushedEntry t q s, D, o⟩ :=
  (((countTrunk_calm _ _ _).keeps.trans (resyncAfter_keeps _ _ _)) _ _).trans (dropRef_deeds _ _ _ _)

theorem flushOne_deeds (e : Port) (q : QEntry) : Deeds ⟨s, q.ticket :: D, o⟩ ⟨flushOne e q s, D, o⟩ := by
  cases e with
  | trunk t => exact flushedEntry_deeds _ _ _ _ _
  | host => exact dropRef_deeds _ _ _ _

/-- Debts paid one after the other. -/
theorem foldl_deeds (f : State → QEntry → State) (h : ∀ s q D o, Deeds ⟨s, q.ticket :: D, o⟩ ⟨f s q, D, o⟩) (l : List QEntry)
    (s : State) : Deeds ⟨s, l.map QEntry.ticket ++ D, o⟩ ⟨l.foldl f s, D, o⟩ := by
  induction l generalizing s with
  | nil => exact .refl _
  | cons q l ih => exact (h s q _ o).trans (ih _)

theorem raiseUndelivered_keeps (e : Port) (q : QEntry) (r : Undelivered) : Keeps s (raiseUndelivered e q r s) := by
  unfold raiseUndelivered
  split
  · exact (raise_calm _ _).keeps
  · exact .refl _

theorem giveUp_keeps {t : TrunkId} {c : Cls} {q : QEntry} {qs : List QEntry} (h : s.fifo (.trunk t) c = q :: qs)
    (r : Undelivered) : Keeps s (giveUp t c q r s) := by
  intro D o
  have counted : Deeds ⟨s, D, o⟩ ⟨countGivenUp t r (popHead (.trunk t) c s), q.ticket :: D, o⟩ :=
    (popHead_deeds s D o h).trans ((countTrunk_calm _ _ _).keeps _ _)
  unfold giveUp
  simp only
  split
  · exact ((counted.trans (resyncAfter_keeps _ _ _ _ _)).trans (raiseUndelivered_keeps _ _ _ _ _ _)).trans (dropRef_deeds _ _ _ _)
  · exact (counted.trans (raiseUndelivered_keeps _ _ _ _ _ _)).trans (dropRef_deeds _ _ _ _)

theorem giveUpHost_keeps {c : Cls} {q : QEntry} {qs : List QEntry} (h : s.fifo .host c = q :: qs) : Keeps s (giveUpHost c q s) :=
  fun D o => ((popHead_deeds s D o h).trans (raiseUndelivered_keeps _ _ _ _ _ _)).trans (dropRef_deeds _ _ _ _)

theorem flushedHead_keeps {t : TrunkId} {c : Cls} {q : QEntry} {qs : List QEntry} (h : s.fifo (.trunk t) c = q :: qs) :
    Keeps s (flushedEntry t q (popHead (.trunk t) c s)) :=
  fun D o => (popHead_deeds s D o h).trans (flushedEntry_deeds _ _ _ _ _)

theorem departed_keeps {e : Port} {c : Cls} {q : QEntry} {qs : List QEntry} (h : s.fifo e c = q :: qs) :
    Keeps s (dropRef q.ticket (popHead e c s)) :=
  fun D o => (popHead_deeds s D o h).trans (dropRef_deeds _ _ _ _)

theorem setHead_keeps {e : Port} {c : Cls} {q q' : QEntry} {qs : List QEntry} (h : s.fifo e c = q :: qs)
    (hq : q'.ticket = q.ticket) : Keeps s (setHead e c q' s) := by
  refine setFifo_keeps s fun n => ?_
  rw [h, List.tail_cons, namedIn_cons n q' qs, namedIn_cons n q qs, namedIn_same hq]

theorem setBalances_calm (t : TrunkId) (b : Quad Int) : Calm s (setBalances t b s) := calm_modTrunk _ _ _ rfl rfl

theorem chooseClass_keeps (t : TrunkId) : Keeps s (chooseClass t s).1 := by
  unfold chooseClass
  split
  · exact .refl _
  · split
    · exact .refl _
    · exact (setBalances_calm _ _ _).keeps

theorem reroute_keeps {t : TrunkId} {c : Cls} {q : QEntry} {qs : List QEntry} (h : s.fifo (.trunk t) c = q :: qs)
    (u : TrunkId) : Keeps s (reroute t c q u s) := by
  intro D o
  have moved : Deeds ⟨s, D, o⟩ ⟨countTrunk t (fun k => { k with rerouted := countUp k.rerouted }) (popHead (.trunk t) c s), q.ticket :: D, o⟩ :=
    (popHead_deeds s D o h).trans ((countTrunk_calm _ _ _).keeps _ _)
  refine (moved.trans (Deed.fifo _ _ _ o (.trunk u) c _ fun n => ?_).once).trans ((wakePort_calm _ (.trunk u)).keeps _ _)
  rw [count_cons, namedIn_append, namedIn_same (q := q) (q' := { q with flushMark := false }) rfl]
  omega

theorem pickWithin_keeps (fuel : Nat) (t : TrunkId) : Keeps s (pickWithin fuel t s).1 := by
  induction fuel generalizing s with
  | zero => exact .refl _
  | succ n ih =>
    have chosen := chooseClass_keeps s t
    unfold pickWithin
    split
    · next h => simpa [h] using chosen
    · next x c h =>
      rw [h] at chosen
      split
      · exact chosen
      · next q qs hq =>
        split
        · exact chosen
        · exact chosen.trans ((giveUp_keeps _ hq _).trans (ih _))
        · exact chosen.trans ((reroute_keeps _ hq _).trans (ih _))

theorem pickTrunk_keeps (t : TrunkId) : Keeps s (pickTrunk t s).1 := pickWithin_keeps _ _ _

theorem hostPickWithin_keeps (fuel : Nat) : Keeps s (hostPickWithin fuel s).1 := by
  induction fuel generalizing s with
  | zero => exact .refl _
  | succ n ih =>
    unfold hostPickWithin
    split
    · exact .refl _
    · split
      · exact .refl _
      · next q qs hq =>
        split
        · exact .refl _
        · split
          · exact (giveUpHost_keeps _ hq).trans (ih _)
          · exact .refl _

theorem hostPick_keeps : Keeps s (hostPick s).1 := hostPickWithin_keeps _ _

theorem flushClass_keeps (e : Port) (c : Cls) : Keeps s (flushClass e c s).1 := by
  intro D o
  unfold flushClass
  split
  · exact .refl _
  · next q rest h =>
    split
    · refine (setFifo_deeds s D o (l := rest) fun n => ?_).trans (foldl_deeds _ _ _ (fun s q D o => flushOne_deeds s D o e q) _ _)
      rw [h, namedIn_cons n q rest, namedIn_same (q := q) (q' := { q with flushMark := true }) rfl]
    · refine (setFifo_deeds s D o (l := q :: rest) fun n => ?_).trans
        (foldl_deeds _ _ _ (fun s q D o => flushOne_deeds s D o e q) _ _)
      rw [h]
      simp [namedIn]

theorem flushClasses_keeps (e : Port) (cs : List Cls) : Keeps s (flushClasses e cs s).1 := by
  unfold flushClasses
  generalize 0 = n
  induction cs generalizing s n with
  | nil => exact .refl _
  | cons c cs ih => exact (flushClass_keeps s e c).trans (ih _ _)

theorem emptyClass_keeps (t : TrunkId) (c : Cls) : Keeps s (emptyClass t c s) := by
  intro D o
  refine (setFifo_deeds s D o (l := s.fifo (.trunk t) c) fun n => ?_).trans
    (foldl_deeds _ _ _ (fun s q D o => flushedEntry_deeds s D o t q) _ _)
  simp [namedIn]

theorem emptyEgress_keeps (t : TrunkId) : Keeps s (emptyEgress t s).1 :=
  ((emptyClass_keeps s t 3).trans (emptyClass_keeps _ t 2)).trans ((emptyClass_keeps _ t 1).trans (emptyClass_keeps _ t 0))

end Egress

section Link

variable (s : State)

/-! ### The host link -/

theorem startResend_keeps : Keeps s (startResend s) := by
  unfold startResend
  split
  · exact (calm_modLink _ _ rfl).keeps
  · exact (calm_modLink _ _ rfl).keeps.trans (countLink_calm _ _).keeps

theorem startNotice_keeps : Keeps s (startNotice s) := by
  unfold startNotice
  split
  · exact .refl _
  · exact (calm_modLink _ _ rfl).keeps.trans (countLink_calm _ _).keeps

theorem takeNotice_keeps : Keeps s (takeNotice s) := by
  unfold takeNotice
  split
  · exact startResend_keeps _
  · exact startNotice_keeps _

theorem startTelegram_keeps (p : Cls × QEntry) : Keeps s (startTelegram p s) := by
  unfold startTelegram
  split
  · exact .refl _
  · exact (calm_modLink _ _ rfl).keeps

theorem takeTelegram_keeps : Keeps s (takeTelegram s) := by
  have picked := hostPick_keeps s
  unfold takeTelegram
  split
  · next e =>
    rw [e] at picked
    exact picked.trans (startTelegram_keeps _ _)
  · next e =>
    rw [e] at picked
    split
    · exact picked.trans (takeNotice_keeps _)
    · exact picked

theorem takeNext_keeps : Keeps s (takeNext s) := by
  unfold takeNext
  split
  · exact (calm_modLink _ _ rfl).keeps
  · split
    · exact takeNotice_keeps _
    · split
      · exact takeTelegram_keeps _
      · exact .refl _

theorem serveLink_keeps : Keeps s (serveLink s) := by
  unfold serveLink
  split
  · exact takeNext_keeps _
  all_goals exact .refl _

theorem endMessage_calm : Keeps s (endMessage s) := (calm_modLink _ _ rfl).keeps.trans (countLink_calm _ _).keeps

theorem startNoticeTimer_calm : Calm s (startNoticeTimer s) := calm_modLink _ _ rfl

theorem countBadIn_calm : Calm s (countBadIn s) := countLink_calm _ _

theorem countIn_calm : Calm s (countIn s) := countLink_calm _ _

theorem resume_keeps : Keeps s (resume s) := by
  unfold resume
  split
  · refine (calm_modLink _ _ ?_).keeps
    split <;> rfl
  · exact .refl _

end Link

section Controllers

variable (s : State)

/-! ### The controllers -/

/-- A transaction that holds nothing recorded; a POLL of a station with an entry. -/
theorem beginTxn_keeps (t : TrunkId) (a : Activity) {k : TxnKind} (h : ∀ m, k = .poll m → ∃ e ∈ s.dir, e.num = m ∧ e.isStation = true) :
    Keeps s (beginTxn t a k s) := fun D o =>
  (Deed.txn s D o t _ rfl (fun x n hx hh => by cases hx; cases hh) fun x m hx hm => by cases hx; exact .inr (h m hm)).once

/-- Where a transaction is dropped, nothing is held. -/
theorem dropTxn_keeps {t : TrunkId} {f : Trunk → Trunk} (hf : (f (s.trunk t)).egress.fifo = (s.trunk t).egress.fifo)
    (hx : (f (s.trunk t)).txn = none) : Keeps s (s.modTrunk t f) := fun D o =>
  (Deed.txn s D o t f hf (fun x n h => by rw [hx] at h; cases h) fun x m h => by rw [hx] at h; cases h).once

/-- The stations of a poll ring have entries. -/
theorem mem_ring {t : TrunkId} {x : Num × Station} (h : x ∈ s.ring t) : ∃ e ∈ s.dir, e.num = x.1 ∧ e.isStation = true := by
  unfold State.ring at h
  obtain ⟨e, he, hx⟩ := List.mem_filterMap.mp h
  refine ⟨e, he, ?_⟩
  unfold DirEntry.isStation
  split at hx
  · cases hx
  · next hb =>
    split at hx
    · cases hx
      simp [hb]
    · cases hx

/-- The station that a search finds is one of those searched. -/
theorem mem_of_searchRing {c : Fin 8} {l : List (Num × Station)} {n : Num} (h : (searchRing s c l).2 = some n) :
    ∃ x ∈ l, x.1 = n := by
  induction l with
  | nil => cases h
  | cons x l ih =>
    unfold searchRing at h
    split at h
    · split at h
      · cases h
        exact ⟨x, List.mem_cons_self, rfl⟩
      · obtain ⟨y, hy, hn⟩ := ih h
        exact ⟨y, List.mem_cons_of_mem _ hy, hn⟩
    · obtain ⟨y, hy, hn⟩ := ih h
      exact ⟨y, List.mem_cons_of_mem _ hy, hn⟩

theorem countWithheld_calm (t : TrunkId) (n : Nat) : Calm s (countWithheld t n s) := countTrunk_calm _ _ _

theorem beginPoll_keeps (t : TrunkId) (p : Nat) {n : Num} (h : ∃ e ∈ s.dir, e.num = n ∧ e.isStation = true) :
    Keeps s (beginPoll t p n s) := by
  have counted : Keeps s ((countWithheld t p s).modTrunk t fun r => { r with pointer := some n }) :=
    (countWithheld_calm s t p).keeps.trans (calm_modTrunk _ _ _ rfl rfl).keeps
  exact counted.trans (beginTxn_keeps _ _ _ fun m hm => by cases hm; exact h)

theorem beginCall_keeps (t : TrunkId) : Keeps s (beginCall t s) := beginTxn_keeps _ _ _ fun _ hm => by cases hm

theorem beginEntry_keeps (t : TrunkId) (p : Cls × QEntry) : Keeps s (beginEntry t p s) := by
  unfold beginEntry
  split
  · exact beginTxn_keeps _ _ _ fun _ hm => by cases hm
  · exact beginTxn_keeps _ _ _ fun _ hm => by cases hm

theorem endCycle_keeps (t : TrunkId) (p : Nat) : Keeps s (endCycle t p s) :=
  (countWithheld_calm s t p).keeps.trans (calm_modTrunk _ _ _ rfl rfl).keeps

theorem goIdle_calm (t : TrunkId) : Calm s (goIdle t s) := calm_modTrunk _ _ _ rfl rfl

theorem decideLast_keeps (t : TrunkId) : Keeps s (decideLast t s).1 := by
  have picked := pickTrunk_keeps s t
  unfold decideLast
  split
  · next e =>
    rw [e] at picked
    exact picked.trans (beginEntry_keeps _ _ _)
  · next e =>
    rw [e] at picked
    split
    · exact picked
    · exact picked.trans (goIdle_calm _ _).keeps

theorem decideFromStart_keeps (t : TrunkId) : Keeps s (decideFromStart t s).1 := by
  unfold decideFromStart
  split
  · exact beginCall_keeps _ _
  · split
    · next e =>
      obtain ⟨x, hx, rfl⟩ := mem_of_searchRing s (congrArg Prod.snd e)
      exact beginPoll_keeps _ _ _ (mem_ring s hx)
    · exact decideLast_keeps _ _

theorem decideCycle_keeps (t : TrunkId) : Keeps s (decideCycle t s).1 := by
  unfold decideCycle
  split
  · exact beginCall_keeps _ _
  · split
    · next e =>
      obtain ⟨x, hx, rfl⟩ := mem_of_searchRing s (congrArg Prod.snd e)
      exact beginPoll_keeps _ _ _ (mem_ring s (List.mem_filter.mp hx).1)
    · exact (endCycle_keeps _ _ _).trans (decideFromStart_keeps _ _)

theorem decideOnce_keeps (t : TrunkId) : Keeps s (decideOnce t s).1 := by
  have picked := pickTrunk_keeps s t
  unfold decideOnce
  split
  · split
    · next e =>
      rw [e] at picked
      exact (picked.trans (beginEntry_keeps _ _ _)).trans
        (calm_modTrunk (beginEntry _ _ _) t (fun r => { r with burst := r.burst.map (· + 1) }) rfl rfl).keeps
    · next e =>
      rw [e] at picked
      exact picked.trans (decideCycle_keeps _ _)
  · exact decideCycle_keeps _ _

theorem decideWithin_keeps (fuel : Nat) (t : TrunkId) : Keeps s (decideWithin fuel t s) := by
  induction fuel generalizing s with
  | zero => exact (goIdle_calm _ _).keeps
  | succ n ih =>
    have once := decideOnce_keeps s t
    unfold decideWithin
    split
    · next e =>
      rw [e] at once
      exact once.trans (ih _)
    · next e =>
      rw [e] at once
      exact once

theorem workDecision_keeps (t : TrunkId) : Keeps s (workDecision t s) := by
  unfold workDecision
  split
  · exact decideWithin_keeps _ _ _
  · exact .refl _

theorem endTxn_keeps (t : TrunkId) : Keeps s (endTxn t s) := (dropTxn_keeps s rfl rfl).trans (workDecision_keeps _ _)

theorem runWakesWithin_keeps (fuel : Nat) : Keeps s (runWakesWithin fuel s) := by
  induction fuel generalizing s with
  | zero => exact (calm_setWakes _ _).keeps
  | succ n ih =>
    unfold runWakesWithin
    split
    · exact .refl _
    · simp only
      split
      · exact (calm_setWakes _ _).keeps.trans ((workDecision_keeps _ _).trans (ih _))
      · exact (calm_setWakes _ _).keeps.trans (ih _)

theorem runWakes_keeps : Keeps s (runWakes s) := runWakesWithin_keeps _ _

/-- The end of an event. -/
theorem finish_keeps : Keeps s (finish s) :=
  ((runWakes_keeps s).trans (serveLink_keeps _)).trans ((runWakes_keeps _).trans (serveLink_keeps _))

theorem startTimer_calm (t : TrunkId) (u : Nat) : Calm s (startTimer t u s) := calm_modTrunk _ _ _ rfl rfl

theorem settle_keeps (t : TrunkId) : Keeps s (settle t s) :=
  (calm_modTrunk s t (fun r => { r with activity := .settling }) rfl rfl).keeps.trans (startTimer_calm _ _ _).keeps

theorem goQuiet_keeps (t : TrunkId) : Keeps s (goQuiet t s) :=
  (calm_modTrunk s t (fun r => { r with activity := .quiet }) rfl rfl).keeps.trans (startTimer_calm _ _ _).keeps

theorem abandonEntry_keeps (t : TrunkId) : Keeps s (abandonEntry t s) := by
  unfold abandonEntry
  split
  · exact .refl _
  · split
    · exact .refl _
    · next q qs h =>
      split
      · exact flushedHead_keeps _ h
      · split
        · exact departed_keeps _ h
        · exact .refl _

end Controllers

end Sys2Proof.Machine
end


section
/-!
PROOFS. Every command as a chain of deeds: reservations taken in hand and given back, the requests, the frames, the timers, the pins.
-/

namespace Sys2Proof.Machine

section Reservations

variable (s : State) (D : List Nat)

/-! ### Reservations -/

/-- A reservation asked for a port whose record is not read: what it is granted is in hand. -/
theorem reserve_deeds (p : Port) (m : Num) (l : Nat) (hm : ∀ t, p = .trunk t → s.polling t m) :
    Deeds ⟨s, D, some (p, none)⟩ ⟨(reserve p m l s).1, D, some (p, (reserve p m l s).2.inHand m)⟩ := by
  unfold reserve
  split
  · exact countFailure_keeps _ _ _ _
  · next h => exact ((Deed.grant s D p m l h hm).once).trans (testLow_keeps _ _ _)

theorem releaseFilling_deeds (p : Port) (n : Nat) (m : Num) :
    Deeds ⟨s, D, some (p, some (n, m))⟩ ⟨releaseFilling n s, D, some (p, none)⟩ := (Deed.release s D p n m).once

/-- The telegram in hand routed: accepted, or its reservation released. -/
theorem routeArrival_deeds (p : Port) (m : Num) (mark : Bool) (n : Nat) (dest : Num) (cls : Byte)
    (hw : ∀ c needs, s.route p m dest cls = .ok (c, needs) → s.written n) :
    Deeds ⟨s, D, some (p, some (n, m))⟩ ⟨(routeArrival p m mark n dest cls s).1, D, some (p, none)⟩ := by
  cases h : s.route p m dest cls with
  | ok r =>
    obtain ⟨c, needs⟩ := r
    exact (Deed.accept s D p n m mark dest cls c needs (hw c needs h) h).once
  | error r =>
    simp only [routeArrival, h]
    exact releaseFilling_deeds _ _ _ _ _

/-- A class that routing accepts is one of the four (06 R113). -/
theorem class_of_route_ok {s : State} {p : Port} {m dest : Num} {cls : Byte} {c : Cls} {needs : List Need}
    (h : s.route p m dest cls = .ok (c, needs)) : cls.toNat < 4 := by
  unfold State.route at h
  split at h
  · assumption
  · cases h

theorem written_fillTicket (n : Nat) (dest : Num) {cls : Byte} (data : List Byte) (hc : cls.toNat < 4) :
    (fillTicket n dest cls data s).written n := by
  intro k hk
  cases h : s.ticket n with
  | none =>
    rw [fillTicket, h] at hk
    simp only [h] at hk
    cases hk
  | some o =>
    rw [fillTicket_ticket h, if_pos rfl] at hk
    cases hk
    exact ⟨rfl, cls, rfl, hc⟩

theorem written_congr {s s' : State} (h : s'.store = s.store) {n : Nat} (hw : s.written n) : s'.written n := by
  intro k hk
  rw [ticket_congr h] at hk
  exact hw k hk

/-! ### The reservation of a trunk's transaction -/

theorem giveBackTxn_deeds (t : TrunkId) :
    Deeds ⟨s, [], none⟩ ⟨giveBackTxn t s, [], some (.trunk t, none)⟩ := by
  unfold giveBackTxn giveBack
  split
  · next n h =>
    obtain ⟨x, hx, hh⟩ := Option.bind_eq_some_iff.mp h
    have take : ∃ m, ∀ m', x.kind = .poll m' → m' = m := by
      cases hk : x.kind with
      | poll m => exact ⟨m, fun m' h => by cases h; rfl⟩
      | _ => exact ⟨0, fun m' h => by cases h⟩
    obtain ⟨m, hm⟩ := take
    exact ((Deed.takeTrunk s [] t x n m hx hh hm).once).trans (releaseFilling_deeds _ _ _ _ _)
  · exact (Deed.takeNone s [] _).once
  · exact (Deed.takeNone s [] _).once

/-- A trunk's transaction changed while its reservation is in hand: then, if it holds no grant, its record is read again. -/
theorem settleTxn_deeds {t : TrunkId} {f : Trunk → Trunk} (h : Option (Nat × Num))
    (hf : (f (s.trunk t)).egress.fifo = (s.trunk t).egress.fifo)
    (hh : ∀ x n, (f (s.trunk t)).txn = some x → x.held ≠ some (.granted n))
    (hk : ∀ x m, (f (s.trunk t)).txn = some x → x.kind = .poll m → ∃ y, (s.trunk t).txn = some y ∧ y.kind = .poll m) :
    Deeds ⟨s, D, some (.trunk t, h)⟩ ⟨s.modTrunk t f, D, none⟩ := by
  refine ((Deed.txn s D _ t f hf (fun _ _ _ _ => ⟨h, rfl⟩) fun x m hx hm => .inl (hk x m hx hm)).once).trans
    (Deed.backTrunk _ D t h fun x n hx hg => ?_).once
  rw [State.modTrunk_trunk_self] at hx
  exact absurd hg (hh x n hx)

theorem enterConfirming_deeds (t : TrunkId) (c : Confirm) (h : Option (Nat × Num)) :
    Deeds ⟨s, D, some (.trunk t, h)⟩ ⟨enterConfirming t c s, D, none⟩ := by
  refine settleTxn_deeds s D h rfl (fun x n hx hg => ?_) fun x m hx hm => ?_
  · obtain ⟨y, -, rfl⟩ := Option.map_eq_some_iff.mp hx
    cases hg
  · obtain ⟨y, hy, rfl⟩ := Option.map_eq_some_iff.mp hx
    exact ⟨y, hy, hm⟩

theorem setHeld_none_deeds (t : TrunkId) (h : Option (Nat × Num)) :
    Deeds ⟨s, D, some (.trunk t, h)⟩ ⟨setHeld t none s, D, none⟩ := by
  refine settleTxn_deeds s D h rfl (fun x n hx hg => ?_) fun x m hx hm => ?_
  · obtain ⟨y, -, rfl⟩ := Option.map_eq_some_iff.mp hx
    cases hg
  · obtain ⟨y, hy, rfl⟩ := Option.map_eq_some_iff.mp hx
    exact ⟨y, hy, hm⟩

/-- A trunk's transaction dropped while its reservation is in hand. -/
theorem dropTxn_deeds {t : TrunkId} {f : Trunk → Trunk} (h : Option (Nat × Num))
    (hf : (f (s.trunk t)).egress.fifo = (s.trunk t).egress.fifo) (hx : (f (s.trunk t)).txn = none) :
    Deeds ⟨s, D, some (.trunk t, h)⟩ ⟨s.modTrunk t f, D, none⟩ :=
  settleTxn_deeds s D h hf (fun x n h => by rw [hx] at h; cases h) fun x m h => by rw [hx] at h; cases h

theorem endTxn_deeds (t : TrunkId) (h : Option (Nat × Num)) : Deeds ⟨s, D, some (.trunk t, h)⟩ ⟨endTxn t s, D, none⟩ :=
  (dropTxn_deeds s D h rfl rfl).trans (workDecision_keeps _ _ _ _)

theorem abandon_runs (t : TrunkId) (b : Bool) : Runs s (abandon t b s) := by
  have given := giveBackTxn_deeds s t
  unfold abandon
  simp only
  split
  · exact given.trans (dropTxn_deeds _ _ _ rfl rfl)
  · exact (given.trans (abandonEntry_keeps _ _ _ _)).trans (dropTxn_deeds _ _ _ rfl rfl)

/-! ### The reservation of a SEND -/

/-- The receiver's record changed while HOST's reservation is in hand; it holds no grant, so that it is read again. -/
theorem setRxHunting_deeds (h : Option (Nat × Num)) :
    Deeds ⟨s, D, some (.host, h)⟩ ⟨s.modLink fun l => { l with rx := .hunting }, D, some (.host, h)⟩ :=
  (Deed.rx s D _ _ fun _ _ hr => by cases hr).once

theorem backHost_deeds {h : Option (Nat × Num)} (hr : ∀ b n, s.link.rx ≠ .collecting b (some (.granted n))) :
    Deeds ⟨s, D, some (.host, h)⟩ ⟨s, D, none⟩ :=
  (Deed.backHost s D h fun b n hx => absurd hx (hr b n)).once

theorem giveBack_link_rx (h : Option Held) : (giveBack h s).link.rx = s.link.rx := (giveBack_services s h).link.rx

theorem dropArrival_rx : (dropArrival s).link.rx = .hunting := by
  unfold dropArrival
  split
  · rw [giveBack_link_rx]
    rfl
  · rfl
  · rfl

theorem dropArrival_runs : Runs s (dropArrival s) := by
  have plain : Runs s (s.modLink fun l => { l with rx := .hunting }) := (Deed.rx s [] none _ fun _ _ hr => by cases hr).once
  unfold dropArrival
  split
  · next b held hx =>
    unfold giveBack
    split
    · next n =>
      refine (((Deed.takeHost s [] b n 0 hx).once.trans (setRxHunting_deeds _ _ _)).trans
        (releaseFilling_deeds _ _ _ _ _)).trans (backHost_deeds _ _ fun b' n' hr => ?_)
      rw [(releaseFilling_services _ n).link.rx] at hr
      cases hr
    · exact plain
    · exact plain
  · exact plain
  · exact plain

end Reservations

section Requests

variable (s : State)

/-! ### The end of a RESTART, requests -/

theorem completeRestart_keeps (p : RestartProgress) : Keeps s (completeRestart p s) := by
  unfold completeRestart
  refine (calm_modLink s (fun l => { l with restart := none }) rfl).keeps.trans ?_
  generalize (s.modLink fun l => { l with restart := none }) = u
  simp only
  split
  · exact ((calm_modLink _ _ rfl).keeps.trans (calm_modLink _ _ rfl).keeps).trans
      ((raise_calm _ _).keeps.trans (wakeAll_calm _).keeps)
  · exact (raise_calm _ _).keeps.trans (wakeAll_calm _).keeps

theorem checkRestart_keeps : Keeps s (checkRestart s) := by
  unfold checkRestart
  split
  · split
    · exact completeRestart_keeps _ _
    · exact .refl _
  · exact .refl _

theorem reportQuiet_keeps (t : TrunkId) : Keeps s (reportQuiet t s) := by
  unfold reportQuiet
  split
  · split
    · exact (calm_modLink _ _ rfl).keeps.trans (checkRestart_keeps _)
    · exact .refl _
  · exact .refl _

theorem conclude_keeps (q : Byte) (c : BitVec 16) (r : State × Answer) : Keeps r.1 (conclude q c r) := by
  unfold conclude
  split
  · exact (calm_modLink _ _ rfl).keeps.trans (calm_modLink _ _ rfl).keeps
  · exact (calm_modLink _ _ rfl).keeps.trans (calm_modLink _ _ rfl).keeps
  · exact (calm_modLink _ _ rfl).keeps

theorem replay_keeps : Keeps s (replay s) := by
  unfold replay
  have counted := (countLink_calm s fun c => { c with replays := countUp c.replays }).keeps
  simp only
  split
  · split
    · exact counted.trans (calm_modLink _ _ rfl).keeps
    · exact counted
  · exact counted

theorem answerBusy_keeps (q : Byte) : Keeps s (answerBusy q s) :=
  (countLink_calm s fun c => { c with busyReplies := countUp c.busyReplies }).keeps.trans (calm_modLink _ (fun l => { l with replies := l.replies ++ [failedReply q .busy] }) rfl).keeps

theorem judgeRequest_runs (q : Byte) (c : BitVec 16) {drop : State → State} {run : State → State × Answer}
    (hd : Runs s (drop s)) (hr : Runs s (run s).1) : Runs s (judgeRequest q c drop run s) := by
  unfold judgeRequest
  split
  · exact hd.trans (countBadIn_calm _).keeps.runs
  · split
    · exact hd.trans (replay_keeps _).runs
    · split
      · exact hd.trans (answerBusy_keeps _ _).runs
      · exact hr.trans ((conclude_keeps _ _ _).trans (checkRestart_keeps _)).runs

/-- A request, by what it drops and what it runs once it is counted. -/
theorem request_runs (k q : Byte) (body : List Byte) {drop : State → State} {run : State → State × Answer}
    (hd : ∀ s, Runs s (drop s)) (hr : Runs (countIn s) (run (countIn s)).1) : Runs s (request k q body drop run s) := by
  unfold request
  split
  · exact (((countIn_calm s).keeps.runs.trans (judgeRequest_runs _ _ _ (hd _) hr)).trans (resume_keeps _).runs).trans
      (finish_keeps _).runs
  · exact ((hd s).trans (countBadIn_calm _).keeps.runs).trans (finish_keeps _).runs

theorem plainRequest_runs (k q : Byte) (body : List Byte) {run : State → State × Answer} (hr : ∀ s, Runs s (run s).1) :
    Runs s (plainRequest k q body run s) := request_runs s k q body (fun s => .refl s) (hr _)

theorem runHello_keeps (body : List Byte) : Keeps s (runHello body s).1 := by
  unfold runHello
  split
  · split
    · exact .refl _
    · simp only
      split
      · exact (calm_modLink _ _ rfl).keeps
      · exact .refl _
  · exact .refl _

theorem setWake_keeps (p : ParamRef) : Keeps s (setWake p s) := by
  unfold setWake
  split
  · exact (wake_calm _ _).keeps
  · exact (wake_calm _ _).keeps
  · exact (wakeAll_calm _).keeps
  · exact .refl _

theorem runSet_keeps (body : List Byte) : Keeps s (runSet body s).1 := by
  unfold runSet
  split
  · split
    · exact .refl _
    · simp only
      split
      · split
        · exact .refl _
        · exact (calm_setParams _ _).keeps.trans (setWake_keeps _ _)
      · exact .refl _
  · exact .refl _

theorem runGet_keeps (body : List Byte) : Keeps s (runGet body s).1 := by
  unfold runGet
  split
  · split <;> exact .refl _
  · exact .refl _

/-! ### TRUNK -/

theorem closeTrunk_runs (t : TrunkId) : Runs s (closeTrunk t s).1 := by
  simp only [closeTrunk]
  exact (abandon_runs s t true).trans ((emptyEgress_keeps _ _).trans ((closingEffects_keeps _ _).trans
    (dropTxn_keeps _ (by rfl) (by rfl)))).runs

theorem quietIfSound_keeps (t : TrunkId) : Keeps s (quietIfSound t s) := by
  unfold quietIfSound
  split
  · exact goQuiet_keeps _ _
  · exact .refl _

theorem setMode_keeps (t : TrunkId) (m : Mode) : Keeps s (s.modTrunk t fun k => { k with mode := m }) :=
  (calm_modTrunk s t (fun k => { k with mode := m }) rfl rfl).keeps

theorem carryToSurvey_runs (t : TrunkId) : Runs s (carryToSurvey t s).1 := by
  unfold carryToSurvey
  split
  · exact ((emptyEgress_keeps _ _).trans (setMode_keeps _ t .survey)).runs
  · exact (abandon_runs s t true).trans ((emptyEgress_keeps _ _).trans
      ((setMode_keeps _ t .survey).trans (quietIfSound_keeps _ _))).runs

theorem surveyToCarry_runs (t : TrunkId) : Runs s (surveyToCarry t s).1 := by
  unfold surveyToCarry
  split
  · exact (setMode_keeps s t .carry).runs
  · exact (abandon_runs s t false).trans ((setMode_keeps _ t .carry).trans (quietIfSound_keeps _ _)).runs

theorem openTrunk_keeps (t : TrunkId) (m : Mode) : Keeps s (openTrunk t m s).1 :=
  (calm_modTrunk _ _ _ (by rfl) (by rfl)).keeps.trans (workDecision_keeps _ _)

theorem changeMode_runs (t : TrunkId) (m : Mode) : Runs s (changeMode t m s).1 := by
  unfold changeMode
  split
  · exact .refl _
  · exact .refl _
  · exact .refl _
  · exact (openTrunk_keeps _ _ _).runs
  · exact (openTrunk_keeps _ _ _).runs
  · exact closeTrunk_runs _ _
  · exact closeTrunk_runs _ _
  · exact carryToSurvey_runs _ _
  · exact surveyToCarry_runs _ _

theorem runTrunk_runs (body : List Byte) : Runs s (runTrunk body s).1 := by
  unfold runTrunk
  split
  · split
    · exact changeMode_runs _ _ _
    · exact .refl _
  · exact .refl _

/-! ### Directory edits -/

theorem editAnswer_state (a b : Byte) (r : State × Except Failure EditResult) : (editAnswer a b r).1 = r.1 := by
  unfold editAnswer
  split <;> rfl

theorem newStation_keeps {n : Num} {st : Station} (hn : isStationNumber n = true) (hs : s.station n = none) (hh : st.held = 0) :
    Keeps s (putStation n st s) := fun D o => (Deed.station s D o n st hn hs hh).once

theorem rehomed_held (st : Station) (h : TrunkId) (k : StationKind) (p : Byte) : (st.rehomed h k p).held = st.held := by
  unfold Station.rehomed
  split <;> rfl

theorem pinEntry_keeps {n : Num} (hn : isStationNumber n = true) (h : TrunkId) (c : Option Nat) (b : Bool) (p : Byte) :
    Keeps s (pinEntry n h c b p s).1 := by
  unfold pinEntry
  split
  · next hs =>
    split
    · exact .refl _
    · exact (newStation_keeps s hn hs rfl).trans (wake_calm _ _).keeps
  · next st hs =>
    split
    · split
      · exact .refl _
      · have written := (calm_putStation s hs (st' := { st.rehomed h (.pinned h c b) p with state := .active, missed := 0 })
          (rehomed_held st h (.pinned h c b) p)).keeps
        exact written.trans ((wakeHome_calm _ _).keeps.trans (wake_calm _ _).keeps)
    · have written := (calm_putStation s hs (rehomed_held st h (.pinned h c b) p)).keeps
      exact written.trans ((wake_calm _ _).keeps.trans (wake_calm _ _).keeps)

theorem groupEntry_keeps {n : Num} (hn : isGroupNumber n = true) (m : Members) : Keeps s (groupEntry n m s).1 := by
  have written : Keeps s (s.setDir (putInto ⟨n, .group m⟩ s.dir)) := fun D o => (Deed.group s D o n m hn).once
  unfold groupEntry
  simp only
  split
  · exact written
  · split
    · exact .refl _
    · exact written

theorem station_of_entry {n : Num} {e : DirEntry} {st : Station} (he : s.entry n = some e) (hb : e.body = .station st) :
    s.station n = some st := by
  unfold State.station
  rw [he]
  simp [hb]

theorem forgetEntry_keeps (n : Num) : Keeps s (forgetEntry n s).1 := by
  unfold forgetEntry
  split
  · exact .refl _
  · next e he =>
    split
    · next hb =>
      refine dropEntry_keeps s fun st hs => ?_
      unfold State.station at hs
      rw [he] at hs
      simp [hb] at hs
    · next st hb =>
      have hs := station_of_entry s he hb
      split
      · next hh => exact removeStation_keeps s hs hh _
      · exact (calm_putStation s hs (by rfl)).keeps.trans (wakeHome_calm _ _).keeps

theorem runPin_keeps (body : List Byte) : Keeps s (runPin body s).1 := by
  unfold runPin
  split
  · split
    · next hn =>
      split
      · rw [editAnswer_state]
        exact pinEntry_keeps s hn _ _ _ _
      · exact .refl _
    · exact .refl _
  · exact .refl _

theorem runGroup_keeps (body : List Byte) : Keeps s (runGroup body s).1 := by
  unfold runGroup
  split
  · split
    · next hn =>
      split
      · rw [editAnswer_state]
        exact groupEntry_keeps s hn _
      · exact .refl _
    · exact .refl _
  · exact .refl _

theorem runForget_keeps (body : List Byte) : Keeps s (runForget body s).1 := by
  unfold runForget
  split
  · rw [editAnswer_state]
    exact forgetEntry_keeps _ _
  · exact .refl _

theorem runLookup_keeps (body : List Byte) : Keeps s (runLookup body s).1 := by
  unfold runLookup
  split
  · split <;> exact .refl _
  · exact .refl _

theorem runWalk_keeps (body : List Byte) : Keeps s (runWalk body s).1 := by
  unfold runWalk
  split
  · split
    · split <;> exact .refl _
    · exact .refl _
  · exact .refl _

theorem clearGroup_keeps (g : Group) : Keeps s (clearGroup g s) := by
  cases g with
  | trunk t => exact (countTrunk_calm s t fun _ => .zero).keeps
  | host => exact (countLink_calm s fun _ => .zero).keeps
  | store => exact Calm.keeps (.of_same rfl (fun e _ => by cases e <;> rfl) (fun _ => rfl) rfl rfl)
  | directory => exact (countDir_calm s fun _ => .zero).keeps

theorem runStats_keeps (body : List Byte) : Keeps s (runStats body s).1 := by
  unfold runStats
  split
  · split
    · simp only
      split
      · exact clearGroup_keeps _ _
      · exact .refl _
    · exact .refl _
  · exact .refl _

theorem runFlush_keeps (body : List Byte) : Keeps s (runFlush body s).1 := by
  unfold runFlush
  split
  · split
    · exact flushClasses_keeps _ _ _
    · exact .refl _
  · exact .refl _

theorem clearAll_keeps : Keeps s (clearAll s) :=
  (((clearGroup_keeps s _).trans (clearGroup_keeps _ _)).trans ((clearGroup_keeps _ _).trans (clearGroup_keeps _ _))).trans
    (((clearGroup_keeps _ _).trans (clearGroup_keeps _ _)).trans (clearGroup_keeps _ _))

theorem takeRestart_runs (clear : Bool) : Runs s (takeRestart clear s) := by
  have taken : Runs s (takeRestart false s) := (Deed.restart s).once
  cases clear with
  | false => exact taken
  | true => exact taken.trans (clearAll_keeps _).runs

theorem runRestart_runs (body : List Byte) : Runs s (runRestart body s).1 := by
  unfold runRestart
  split
  · split
    · exact .refl _
    · exact takeRestart_runs _ _
  · exact .refl _

end Requests

end Sys2Proof.Machine
end


section
/-!
PROOFS. The SEND, the grants and the messages sent as chains of deeds.
-/

namespace Sys2Proof.Machine

section Send

variable (s : State)

/-! ### SEND -/

theorem reserve_rx (p : Port) (m : Num) (l : Nat) : (reserve p m l s).1.link.rx = s.link.rx := by
  unfold reserve
  split
  · exact (countFailure_services s _).link.rx
  · exact (testLow_services (s.setStore _)).link.rx

theorem routeArrival_rx (p : Port) (m : Num) (b : Bool) (n : Nat) (d : Num) (c : Byte) :
    (routeArrival p m b n d c s).1.link.rx = s.link.rx := (routeArrival_services s p m b n d c).link.rx

theorem reserveSend_runs (l : Nat) : Runs s (reserveSend l s) := by
  have granted : Deeds ⟨s, [], none⟩ ⟨(reserve .host 0 (l - 3) s).1, [], some (.host, (reserve .host 0 (l - 3) s).2.inHand 0)⟩ :=
    ((Deed.takeNone s [] .host).once).trans (reserve_deeds _ _ _ _ _ fun _ h => by cases h)
  have kept : Deeds ⟨(reserve .host 0 (l - 3) s).1, [], some (.host, (reserve .host 0 (l - 3) s).2.inHand 0)⟩
      ⟨reserveSend l s, [], some (.host, (reserve .host 0 (l - 3) s).2.inHand 0)⟩ :=
    (Deed.rx _ _ _ (fun k => { k with rx := .collecting l (some (reserve .host 0 (l - 3) s).2) }) fun _ _ _ => ⟨_, rfl⟩).once
  refine (granted.trans kept).trans (Deed.backHost _ _ _ fun b n hx => ⟨0, ?_⟩).once
  have hx : HostRx.collecting l (some (reserve .host 0 (l - 3) s).2) = .collecting b (some (.granted n)) := hx
  cases h : (reserve .host 0 (l - 3) s).2 with
  | granted k =>
    rw [h] at hx
    cases hx
    rfl
  | failed r =>
    rw [h] at hx
    cases hx

theorem sendHeader_runs (length : BitVec 16) : Runs s (sendHeader length s) := by
  unfold sendHeader
  split
  · exact .refl _
  all_goals
    split
    · split
      · exact (reserveSend_runs _ _).trans (finish_keeps _).runs
      · exact (Deed.rx s [] none _ fun _ _ h => by cases h).once
    · exact .refl _

theorem fillArrival_runs (body : List Byte) : Runs s (fillArrival body s) := by
  unfold fillArrival
  split
  · next b k hx =>
    split
    · split
      · refine ((Deed.takeHost s [] b k 0 hx).once.trans (Deed.fill s [] .host k 0 _ _ _).once).trans
          (Deed.backHost _ _ _ fun b' n' hr => ⟨0, ?_⟩).once
        rw [fillTicket_link, hx] at hr
        cases hr
        rfl
      · exact .refl _
    · exact .refl _
  all_goals exact .refl _

/-- The ticket that a SEND's header was granted holds what the body has brought, where the length is the header's. -/
def State.broughtIn (s : State) (cls : Byte) (data : List Byte) : Prop :=
  ∀ k, s.link.rx = .collecting (data.length + 3) (some (.granted k)) → cls.toNat < 4 → s.written k

theorem fillArrival_broughtIn (hi lo cls : Byte) (data : List Byte) :
    (fillArrival (hi :: lo :: cls :: data) s).broughtIn cls data := by
  intro k hk hc
  rw [(fillArrival_services s _).link.rx] at hk
  simp only [fillArrival, hk, if_pos]
  exact written_fillTicket _ _ _ _ hc

theorem sendArrival_rx (d : Num) (c : Byte) (data : List Byte) : (sendArrival d c data s).1.link.rx = .hunting := by
  have late : (lateArrival d c data s).1.link.rx = .hunting := by
    have got := (reserve_rx (dropArrival s) .host 0 data.length).trans (dropArrival_rx s)
    unfold lateArrival
    split
    · next e =>
      rw [e] at got
      rwa [fillTicket_link]
    · next e => rwa [e] at got
  unfold sendArrival
  split
  · split
    · rfl
    · exact late
  all_goals exact late

theorem lateArrival_deeds (d : Num) (c : Byte) (data : List Byte) :
    Deeds ⟨s, [], none⟩ ⟨(lateArrival d c data s).1, [], some (.host, (lateArrival d c data s).2.inHand 0)⟩ := by
  have got : Deeds ⟨s, [], none⟩ ⟨(reserve .host 0 data.length (dropArrival s)).1, [],
      some (.host, (reserve .host 0 data.length (dropArrival s)).2.inHand 0)⟩ :=
    Deeds.trans (dropArrival_runs s) (((Deed.takeNone _ [] .host).once).trans (reserve_deeds _ _ _ _ _ fun _ h => by cases h))
  unfold lateArrival
  split
  · next e =>
    rw [e] at got
    exact got.trans (Deed.fill _ _ _ _ _ _ _ _).once
  · next e =>
    rw [e] at got
    exact got

/-- At a SEND's end its reservation is in hand. -/
theorem sendArrival_deeds (d : Num) (c : Byte) (data : List Byte) :
    Deeds ⟨s, [], none⟩ ⟨(sendArrival d c data s).1, [], some (.host, (sendArrival d c data s).2.inHand 0)⟩ := by
  unfold sendArrival
  split
  · next b h hx =>
    split
    · cases h with
      | granted n => exact ((Deed.takeHost s [] b n 0 hx).once).trans (setRxHunting_deeds _ _ _)
      | failed r => exact ((Deed.takeNone s [] .host).once).trans (setRxHunting_deeds _ _ _)
    · exact lateArrival_deeds _ _ _ _
  all_goals exact lateArrival_deeds _ _ _ _

/-- A ticket with the class of a SEND was written, at its header or now. -/
theorem sendArrival_written {d : Num} {c : Byte} {data : List Byte} (hb : s.broughtIn c data) (hc : c.toNat < 4) {n : Nat}
    (h : (sendArrival d c data s).2 = .granted n) : (sendArrival d c data s).1.written n := by
  have late (h : (lateArrival d c data s).2 = .granted n) : (lateArrival d c data s).1.written n := by
    unfold lateArrival at h ⊢
    split at h
    · cases h
      exact written_fillTicket _ _ _ _ hc
    · cases h
  unfold sendArrival at h ⊢
  split at h
  · next hx =>
    split at h
    · next he =>
      cases h
      simp only [he, if_true]
      exact hb n (he ▸ hx) hc
    · next he =>
      simp only [he, if_false]
      exact late h
  · exact late h
  · exact late h
  · exact late h

theorem sendTelegram_runs {d : Num} {c : Byte} {data : List Byte} (hb : s.broughtIn c data) :
    Runs s (sendTelegram d c data s).1 := by
  have arrived := sendArrival_deeds s d c data
  have rx := sendArrival_rx s d c data
  have written := fun hc n => sendArrival_written s (d := d) hb hc (n := n)
  unfold sendTelegram
  split
  · next u r e =>
    rw [e] at arrived rx
    exact arrived.trans (backHost_deeds _ _ fun b n h => by cases (rx : u.link.rx = .hunting).symm.trans h)
  · next u n e =>
    rw [e] at arrived rx written
    have routed := arrived.trans (routeArrival_deeds u [] .host 0 false n d c fun k needs h =>
      written (class_of_route_ok h) n rfl)
    have back : ∀ b n', (routeArrival .host 0 false n d c u).1.link.rx ≠ .collecting b (some (.granted n')) := fun b n' h => by
      rw [routeArrival_rx, rx] at h
      cases h
    have ended := routed.trans (backHost_deeds _ _ back)
    split
    · next e' =>
      rw [e'] at ended
      exact ended
    · next v e' =>
      rw [e'] at ended
      exact ended.trans ((countLink_calm v fun c => { c with telegramsIn := countUp c.telegramsIn }).keeps _ _)

theorem runSend_runs {body : List Byte} (hb : ∀ hi lo cls data, body = hi :: lo :: cls :: data → s.broughtIn cls data) :
    Runs s (runSend body s).1 := by
  unfold runSend
  split
  · next hi lo cls data =>
    split
    · exact sendTelegram_runs s (hb hi lo cls data rfl)
    · exact dropArrival_runs _
  · exact dropArrival_runs _

theorem sendMessage_runs (q : Byte) (body : List Byte) : Runs s (sendMessage q body s) := by
  refine (fillArrival_runs s body).trans (request_runs _ _ _ _ dropArrival_runs (runSend_runs _ ?_))
  rintro hi lo cls data rfl
  exact fillArrival_broughtIn s hi lo cls data

end Send

section HostEvents

variable (s : State)

/-! ### Grants, spoiled messages, the ends of messages -/

theorem grant_runs (body : List Byte) {f : State → State} (hf : ∀ s, Keeps s (f s)) : Runs s (grant body f s) := by
  unfold grant
  split
  · exact (((countIn_calm s).keeps.trans (hf _)).trans ((resume_keeps _).trans (finish_keeps _))).runs
  · exact ((countBadIn_calm s).keeps.trans (finish_keeps _)).runs

theorem takeCredit_keeps (body : List Byte) : Keeps s (takeCredit body s) := by
  unfold takeCredit
  split
  · split
    · exact (calm_modLink _ _ rfl).keeps
    · exact (countBadIn_calm _).keeps
  · exact (countBadIn_calm _).keeps

theorem acknowledge_keeps (rest : List Unacked) : Keeps s (acknowledge rest s) := by
  have rewritten : Keeps s (s.modLink fun l => { l with unacked := rest, resendDue := .no, noticeTimer := none }) :=
    (calm_modLink s _ rfl).keeps
  unfold acknowledge
  simp only
  split
  · exact rewritten
  · exact rewritten.trans (startNoticeTimer_calm _).keeps

theorem takeNoted_keeps (body : List Byte) : Keeps s (takeNoted body s) := by
  unfold takeNoted
  split
  · split
    · exact acknowledge_keeps _ _
    · exact (countLink_calm _ _).keeps
  · exact (countBadIn_calm _).keeps

theorem spoiled_runs : Runs s (spoiled s) :=
  (dropArrival_runs s).trans ((countBadIn_calm _).keeps.trans (finish_keeps _)).runs

theorem replyEnd_keeps : Keeps s (replyEnd s) := by
  unfold replyEnd
  split
  · exact (endMessage_calm s).trans (finish_keeps _)
  all_goals exact .refl _

theorem timeNotice_keeps : Keeps s (timeNotice s) := by
  unfold timeNotice
  split
  · exact (startNoticeTimer_calm _).keeps
  · exact .refl _

theorem noticeEnd_keeps : Keeps s (noticeEnd s) := by
  unfold noticeEnd
  split
  · exact (endMessage_calm s).trans ((timeNotice_keeps _).trans (finish_keeps _))
  all_goals exact .refl _

theorem departHost_keeps (c : Option Cls) : Keeps s (departHost c s) := by
  unfold departHost
  split
  · exact .refl _
  · split
    · exact .refl _
    · next h => exact departed_keeps s h

theorem telegramEnd_keeps : Keeps s (telegramEnd s) := by
  unfold telegramEnd
  split
  · exact (endMessage_calm s).trans ((countLink_calm _ _).keeps.trans ((departHost_keeps _ _).trans (finish_keeps _)))
  all_goals exact .refl _

theorem noticeSilence_keeps : Keeps s (noticeSilence s) := by
  unfold noticeSilence
  split
  · exact .refl _
  · refine (calm_modLink _ _ ?_).keeps
    split <;> rfl

theorem noticeTimerExpiry_keeps : Keeps s (noticeTimerExpiry s) := by
  unfold noticeTimerExpiry
  split
  · exact .refl _
  · next m _ =>
    have stopped := (calm_modLink (reachMs m.due s) (fun l => { l with noticeTimer := none }) rfl).keeps
    exact (reach_calm s _).keeps.trans (stopped.trans ((noticeSilence_keeps _).trans (finish_keeps _)))

theorem agingExpiry_keeps : Keeps s (agingExpiry s) :=
  (reach_calm s _).keeps.trans ((calm_setAging _ _).keeps.trans ((agingScan_keeps _).trans (finish_keeps _)))

end HostEvents

end Sys2Proof.Machine
end


section
/-!
PROOFS. The frames sent and received, the timers and the pins as chains of deeds; every step is one.
-/

namespace Sys2Proof.Machine

section Sent

variable (s : State) (t : TrunkId)

/-! ### Frames sent -/

theorem setPhase_calm (p : FramePhase) : Calm s (setPhase t p s) := by
  refine calm_modTrunk s t _ rfl ?_
  rw [Option.map_map]
  rfl

theorem setTxnMark_calm (m : Bool) : Calm s (setTxnMark t m s) := by
  refine calm_modTrunk s t _ rfl ?_
  rw [Option.map_map]
  rfl

theorem startFrame_keeps (f : Frame) : Keeps s (startFrame t f s) :=
  (setPhase_calm s t .sending).keeps.trans (calm_modTrunk (setPhase t .sending s) t (fun k => { k with tx := some f }) rfl rfl).keeps

theorem endFrame_keeps : Keeps s (endFrame t s) :=
  (setPhase_calm s t .ended).keeps.trans (calm_modTrunk (setPhase t .ended s) t (fun k => { k with tx := none }) rfl rfl).keeps

theorem endThenTime_keeps (u : Nat) : Keeps s (startTimer t u (endFrame t s)) :=
  (endFrame_keeps s t).trans (startTimer_calm _ _ _).keeps

theorem pollStart_keeps : Keeps s (pollStart t s) := by
  unfold pollStart
  split
  · split
    · exact (countTrunk_calm _ _ _).keeps.trans (startFrame_keeps _ _ _)
    all_goals exact .refl _
  · exact .refl _

theorem callStart_keeps : Keeps s (callStart t s) := by
  unfold callStart
  split
  · have called := (calm_modTrunk (countTrunk t (fun c => { c with calls := countUp c.calls }) s) t
      (fun k => { k with lastCall := some s.timebase, callMade := true }) rfl rfl).keeps
    exact (countTrunk_calm _ _ _).keeps.trans (called.trans (startFrame_keeps _ _ _))
  · exact .refl _

theorem deliverMarks_calm (d : Num) : Keeps s (deliverMarks d s).1 := by
  unfold deliverMarks
  split
  · exact .refl _
  · exact (calm_setFree _ _).keeps

theorem markStarted_keeps (c : Cls) : Keeps s (markStarted t c s) := by
  unfold markStarted
  split
  · exact .refl _
  · next h => exact setHead_keeps s h rfl

theorem deliverStart_keeps : Keeps s (deliverStart t s) := by
  unfold deliverStart
  split
  · split
    · split
      · exact (deliverMarks_calm s _).trans ((countTrunk_calm _ _ _).keeps.trans ((markStarted_keeps _ _ _).trans
          ((setTxnMark_calm _ _ _).keeps.trans (startFrame_keeps _ _ _))))
      · exact .refl _
    all_goals exact .refl _
  · exact .refl _

theorem bcastStart_keeps : Keeps s (bcastStart t s) := by
  unfold bcastStart
  split
  · split
    · split
      · exact (countTrunk_calm _ _ _).keeps.trans (startFrame_keeps _ _ _)
      · exact .refl _
    all_goals exact .refl _
  · exact .refl _

theorem countRefusal_keeps (c : Confirm) : Keeps s (countRefusal t c s) := by
  unfold countRefusal
  split
  · exact .refl _
  · exact (countTrunk_calm _ _ _).keeps

theorem confirmStart_keeps : Keeps s (confirmStart t s) := by
  unfold confirmStart
  split
  · split
    · exact (countRefusal_keeps _ _ _).trans (startFrame_keeps _ _ _)
    · exact .refl _
  · exact .refl _

/-- The end of a frame after which a timer runs. -/
theorem frameEnd_keeps (a : Activity) (u : Nat) :
    Keeps s (if s.sendingIn t a then startTimer t u (endFrame t s) else s) := by
  split
  · exact endThenTime_keeps _ _ _
  · exact .refl _

theorem confirmEnd_keeps : Keeps s (confirmEnd t s) := by
  unfold confirmEnd
  split
  · exact (endFrame_keeps _ _).trans ((endTxn_keeps _ _).trans (finish_keeps _))
  · exact .refl _

end Sent

section Received

variable (s : State) (t : TrunkId)

/-! ### Frames received -/

theorem setRx_calm (r : Reception) : Calm s (setRx t r s) := calm_modTrunk _ _ _ rfl rfl

theorem frameStart_keeps : Keeps s (frameStart t s) := by
  unfold frameStart
  simp only
  split
  · split
    · exact (calm_modTrunk _ _ _ rfl rfl).keeps
    · split
      · exact (setRx_calm _ _ _).keeps
      · exact (setRx_calm _ _ _).keeps
  · exact .refl _

theorem frameEnds_runs {judge : State → State} (hj : ∀ s, Runs s (judge s)) : Runs s (frameEnds t judge s) := by
  unfold frameEnds
  split
  · exact .refl _
  · exact ((countTrunk_calm _ _ _).keeps.trans (setRx_calm _ _ _).keeps).runs
  · exact ((countTrunk_calm _ _ _).keeps.trans (setRx_calm _ _ _).keeps).runs
  · exact (setRx_calm _ _ _).keeps.runs.trans ((hj _).trans (finish_keeps _).runs)

variable {s t} in
theorem polling_of_polled {n : Num} (h : s.polled t = some n) : s.polling t n := by
  unfold State.polled at h
  split at h
  · split at h
    · next m hk =>
      cases h
      exact Option.map_eq_some_iff.mp hk
    all_goals cases h
  · cases h

variable {s t} in
theorem polling_congr {s' : State} (h : (s'.trunk t).txn = (s.trunk t).txn) {n : Num} (hp : s.polling t n) : s'.polling t n := by
  unfold State.polling
  rwa [h]

/-- What is in hand written back into a POLL of the station it was asked for. -/
theorem setHeld_deeds (D : List Nat) {n : Num} (h : s.polling t n) (r : Held) :
    Deeds ⟨s, D, some (.trunk t, r.inHand n)⟩ ⟨setHeld t (some r) s, D, none⟩ := by
  obtain ⟨x, hx, hk⟩ := h
  refine ((Deed.txn s D _ t (fun k => { k with txn := k.txn.map fun y => { y with held := some r } }) rfl
    (fun _ _ _ _ => ⟨_, rfl⟩) fun y m hy hm => ?_).once).trans (Deed.backTrunk _ _ _ _ fun y k hy hg => ?_).once
  · rw [hx] at hy
    cases hy
    exact .inl ⟨x, hx, hm⟩
  · rw [State.modTrunk_trunk_self, hx] at hy
    cases hy
    cases hg
    exact ⟨n, hk, rfl⟩

theorem reserveData_runs {n : Num} (h : s.polling t n) (l : Nat) : Runs s (reserveData t n l s) :=
  (((Deed.takeNone s [] (.trunk t)).once).trans (reserve_deeds _ _ _ _ _ fun u hu => by cases hu; exact h)).trans
    (setHeld_deeds _ t [] (polling_congr (by rw [State.trunk, reserve_trunks]; rfl) h) _)

theorem dataHeader_runs (h : FrameHeader) : Runs s (dataHeader t h s) := by
  unfold dataHeader
  split
  · exact .refl _
  · next hp =>
    split
    · exact (reserveData_runs s t (polling_of_polled hp) _).trans (finish_keeps _).runs
    · exact .refl _

theorem attemptFailed_keeps (c : Cls) (a : Nat) : Keeps s (attemptFailed t c a s) := by
  unfold attemptFailed
  split
  · exact .refl _
  · next h =>
    split
    · exact flushedHead_keeps s h
    · split
      · exact setHead_keeps s h rfl
      · exact giveUp_keeps s h _

theorem unanswered_keeps : Keeps s (unanswered t s) := by
  unfold unanswered
  split
  · exact (missed_keeps _ _ _).trans ((attemptFailed_keeps _ _ _ _).trans (settle_keeps _ _))
  · split
    · exact (missed_keeps _ _ _).trans (settle_keeps _ _)
    · exact .refl _

theorem badAnswer_runs : Runs s (badAnswer t s) :=
  (countTrunk_calm s t fun c => { c with badFrames := countUp c.badFrames }).keeps.runs.trans
    (((giveBackTxn_deeds _ t).trans (setHeld_none_deeds _ [] t none)).trans (unanswered_keeps _ t _ _))

theorem notGood_runs : Runs s (notGood t s) := by
  unfold notGood
  split
  · exact ((countTrunk_calm s t fun c => { c with callsGarbled := countUp c.callsGarbled }).keeps.trans (settle_keeps _ _)).runs
  · exact badAnswer_runs _ _
  · exact badAnswer_runs _ _
  all_goals exact .refl _

theorem judgeNil_runs (h : StationHead) : Runs s (judgeNil t h s) := by
  unfold judgeNil
  split
  · split
    · exact (giveBackTxn_deeds s t).trans ((((countTrunk_calm _ _ _).keeps.trans (heard_keeps _ _ _)) _ _).trans (endTxn_deeds _ _ _ _))
    · exact notGood_runs _ _
  · exact notGood_runs _ _

theorem departHead_keeps (c : Cls) : Keeps s (departHead t c s) := by
  unfold departHead
  split
  · exact .refl _
  · next h => exact departed_keeps s h

theorem goodAck_keeps (d : Num) (c : Cls) (a : Nat) (m : Bool) : Keeps s (goodAck t d c a m s) := by
  have counted := (countTrunk_calm s t fun r => { r with acks := countUp r.acks }).keeps
  unfold goodAck
  simp only
  split
  · exact counted.trans ((acknowledged_keeps _ _ _).trans ((departHead_keeps _ _ _).trans (endTxn_keeps _ _)))
  · exact counted.trans ((heard_keeps _ _ _).trans ((attemptFailed_keeps _ _ _ _).trans (endTxn_keeps _ _)))

theorem judgeAck_runs (h : StationHead) : Runs s (judgeAck t h s) := by
  unfold judgeAck
  split
  · split
    · exact (goodAck_keeps _ _ _ _ _ _).runs
    · exact notGood_runs _ _
  · exact notGood_runs _ _

theorem goodBusy_keeps (d : Num) (c : Cls) (a : Nat) : Keeps s (goodBusy t d c a s) :=
  (countTrunk_calm s t fun r => { r with busyIn := countUp r.busyIn }).keeps.trans
    ((heard_keeps _ _ _).trans ((attemptFailed_keeps _ _ _ _).trans (endTxn_keeps _ _)))

theorem judgeBusy_runs (h : StationHead) : Runs s (judgeBusy t h s) := by
  unfold judgeBusy
  split
  · split
    · exact (goodBusy_keeps _ _ _ _ _).runs
    · exact notGood_runs _ _
  · exact notGood_runs _ _

end Received

section Data

variable (s : State) (t : TrunkId)

/-! ### DATA -/

theorem setHeld_txn (h : Option Held) : ((setHeld t h s).trunk t).txn = (s.trunk t).txn.map fun x => { x with held := h } := by
  unfold setHeld
  rw [State.modTrunk_trunk_self]

theorem polling_setHeld {n : Num} (hp : s.polling t n) (h : Option Held) : (setHeld t h s).polling t n := by
  obtain ⟨x, hx, hk⟩ := hp
  exact ⟨{ x with held := h }, by rw [setHeld_txn, hx]; rfl, hk⟩

theorem ensureHeld_runs {n : Num} (hp : s.polling t n) (l : Nat) :
    Runs s (ensureHeld t n l s) ∧ (ensureHeld t n l s).polling t n := by
  unfold ensureHeld
  split
  · refine ⟨reserveData_runs s t hp l, polling_setHeld _ _ ?_ _⟩
    exact polling_congr (by rw [State.trunk, reserve_trunks]; rfl) hp
  · exact ⟨.refl _, hp⟩

variable {s t} in
/-- What a POLL was granted taken in hand. -/
theorem takeHeld {n : Num} (hp : s.polling t n) {k : Nat} (hh : s.heldOn t = some (.granted k)) :
    Deed ⟨s, [], none⟩ ⟨s, [], some (.trunk t, some (k, n))⟩ := by
  obtain ⟨x, hx, hk⟩ := hp
  refine .takeTrunk s [] t x k n hx ?_ fun m h => ?_
  · simpa [State.heldOn, hx] using hh
  · rw [hk] at h
    cases h
    rfl

theorem heldOn_fillHeld (d : Num) (c : Byte) (data : List Byte) : (fillHeld t d c data s).heldOn t = s.heldOn t := by
  unfold fillHeld
  split
  · unfold State.heldOn State.trunk
    rw [fillTicket_trunks]
  all_goals rfl

theorem polling_fillHeld {n : Num} (hp : s.polling t n) (d : Num) (c : Byte) (data : List Byte) :
    (fillHeld t d c data s).polling t n := by
  refine polling_congr ?_ hp
  unfold fillHeld
  split
  · unfold State.trunk
    rw [fillTicket_trunks]
  all_goals rfl

theorem fillHeld_runs {n : Num} (hp : s.polling t n) (d : Num) (c : Byte) (data : List Byte) :
    Runs s (fillHeld t d c data s) := by
  have back := polling_fillHeld s t hp d c data
  have held := heldOn_fillHeld s t d c data
  unfold fillHeld at back held ⊢
  split
  · next k hh =>
    simp only [hh] at back held
    refine (((takeHeld hp hh).once).trans (Deed.fill _ _ _ _ _ d c data).once).trans (Deed.backTrunk _ _ _ _ fun x m hx hg => ?_).once
    obtain ⟨y, hy, hk⟩ := back
    rw [hx] at hy
    cases hy
    refine ⟨n, hk, ?_⟩
    simp only [State.heldOn, hx, Option.bind_some, hg] at held
    cases held
    rfl
  all_goals exact .refl _

theorem fillHeld_written (d : Num) {c : Byte} (data : List Byte) (hc : c.toNat < 4) {k : Nat} (h : s.heldOn t = some (.granted k)) :
    (fillHeld t d c data s).written k := by
  simp only [fillHeld, h]
  exact written_fillTicket _ _ _ _ hc

theorem newData_deeds {n : Num} (hp : s.polling t n) (m : Bool) (d : Num) {c : Byte}
    (hw : c.toNat < 4 → ∀ k, s.heldOn t = some (.granted k) → s.written k) :
    Deeds ⟨s, [], none⟩ ⟨(newData t n m d c s).1, [], some (.trunk t, none)⟩ := by
  unfold newData
  split
  · next k hh =>
    exact ((takeHeld hp hh).once).trans (routeArrival_deeds _ _ _ _ _ _ _ _ fun _ _ h => hw (class_of_route_ok h) k hh)
  · exact (Deed.takeNone s [] _).once
  · exact (Deed.takeNone s [] _).once

theorem goodData_runs {n : Num} (hp : s.polling t n) (m : Bool) (d : Num) (c : Byte) (data : List Byte) :
    Runs s (goodData t n m d c data s) := by
  have counted := ((countTrunk_calm s t fun r => { r with dataIn := countUp r.dataIn }).keeps.trans (heard_keeps _ t n)).runs
  have pollingHeard : (heard t n (countTrunk t (fun r => { r with dataIn := countUp r.dataIn }) s)).polling t n := by
    refine polling_congr ?_ hp
    rw [State.trunk, heard_trunks]
    change ((countTrunk t _ s).trunk t).txn = _
    rw [countTrunk, State.modTrunk_trunk_self]
  obtain ⟨asked, pollingAsked⟩ := ensureHeld_runs _ t pollingHeard data.length
  have filled := (counted.trans asked).trans (fillHeld_runs _ t pollingAsked d c data)
  have pollingFilled := polling_fillHeld _ t pollingAsked d c data
  have written := fun hc k h => fillHeld_written _ t d (c := c) data hc (k := k)
    ((heldOn_fillHeld (ensureHeld t n data.length (heard t n (countTrunk t (fun r => { r with dataIn := countUp r.dataIn }) s))) t d c data).symm.trans h)
  unfold goodData
  simp only
  split
  · exact (filled.trans (countTrunk_calm _ _ _).keeps.runs).trans
      ((giveBackTxn_deeds _ t).trans (enterConfirming_deeds _ _ _ _ _))
  · exact filled.trans (Deeds.trans (newData_deeds _ t pollingFilled m d written) (enterConfirming_deeds _ _ _ _ _))

theorem judgeData_runs (h : StationHead) (d : Num) (c : Byte) (data : List Byte) : Runs s (judgeData t h d c data s) := by
  unfold judgeData
  split
  · next hp =>
    split
    · exact goodData_runs s t (polling_of_polled hp) _ _ _ _
    · exact notGood_runs _ _
  · exact notGood_runs _ _

end Data

section Join

variable (s : State) (t : TrunkId)

/-! ### JOIN -/

theorem refreshJoin_keeps {n : Num} {st : Station} (h : s.station n = some st) (k : StationKind) (p : Byte) :
    Keeps s (refreshJoin t n st k p s) := by
  have written : Keeps s (putStation n (st.rejoined k p) s) :=
    (calm_putStation s h (st' := st.rejoined k p) rfl).keeps
  unfold refreshJoin
  simp only
  split
  · exact written.trans ((raise_calm _ _).keeps.trans (wake_calm _ _).keeps)
  · exact written.trans (wake_calm _ _).keeps

theorem judgeJoin_keeps (n : Num) (p : Byte) : Keeps s (judgeJoin t n p s).1 := by
  unfold judgeJoin
  split
  · next hn =>
    have counted := (countTrunk_calm s t fun c => { c with joins := countUp c.joins }).keeps
    refine counted.trans ?_
    generalize countTrunk t (fun c => { c with joins := countUp c.joins }) s = u
    simp only
    split
    · next h =>
      split
      · exact .refl _
      · split
        · dsimp only
          exact (raise_calm _ _).keeps.trans (countDir_calm _ _).keeps
        · exact (newStation_keeps u hn h rfl).trans ((raise_calm _ _).keeps.trans ((countDir_calm _ _).keeps.trans (wake_calm _ _).keeps))
    · next st h =>
      split
      · split
        · exact refreshJoin_keeps _ _ h _ _
        · split
          · exact .refl _
          · dsimp only
            exact (raise_calm _ _).keeps.trans (countDir_calm _ _).keeps
      · split
        · exact .refl _
        · split
          · exact refreshJoin_keeps _ _ h _ _
          · have written := (calm_putStation u h (st' := st.rejoined (.dynamic (some t) true none) p) rfl).keeps
            exact written.trans ((raise_calm _ _).keeps.trans ((countDir_calm _ _).keeps.trans
              ((wakeHome_calm _ _).keeps.trans (wake_calm _ _).keeps)))
  · exact (countTrunk_calm s t fun c => { c with badFrames := countUp c.badFrames }).keeps

theorem confirmed_runs (c : Confirm) : Runs s (enterConfirming t c s) :=
  ((Deed.takeNone s [] (.trunk t)).once).trans (enterConfirming_deeds _ _ _ _ _)

theorem goodJoin_runs (h : StationHead) (p : Byte) : Runs s (goodJoin t h p s) := by
  have judged := (judgeJoin_keeps s t h.station p).runs
  unfold goodJoin
  split
  · next e =>
    rw [e] at judged
    exact judged.trans (confirmed_runs _ _ _)
  · next e =>
    rw [e] at judged
    exact judged.trans (confirmed_runs _ _ _)
  · next e =>
    rw [e] at judged
    exact judged.trans (settle_keeps _ _).runs

theorem judgeJoinFrame_runs (h : StationHead) (p : Byte) : Runs s (judgeJoinFrame t h p s) := by
  unfold judgeJoinFrame
  split
  · exact goodJoin_runs _ _ _ _
  · exact notGood_runs _ _

theorem fragmentEnd_keeps : Keeps s (fragmentEnd t s) := by
  unfold fragmentEnd
  split
  · exact (countTrunk_calm _ _ _).keeps
  · exact .refl _

end Join

section Timers

variable (s : State) (t : TrunkId)

/-! ### Timers -/

theorem timeIsUp_keeps (d : Nat) : Keeps s (timeIsUp t d s) :=
  (reach_calm s d).keeps.trans (calm_modTrunk (reach d s) t (fun k => { k with timer := none }) rfl rfl).keeps

theorem answerTimeout_keeps : Keeps s (answerTimeout t s) := by
  unfold answerTimeout
  split
  · split
    · exact (timeIsUp_keeps _ _ _).trans ((countTrunk_calm _ _ _).keeps.trans ((unanswered_keeps _ _).trans (finish_keeps _)))
    · exact .refl _
  · exact .refl _

theorem callWindowExpiry_keeps : Keeps s (callWindowExpiry t s) := by
  unfold callWindowExpiry
  split
  · split
    · exact (timeIsUp_keeps _ _ _).trans ((endTxn_keeps _ _).trans (finish_keeps _))
    · exact .refl _
  · exact .refl _

theorem settleGapEnd_keeps : Keeps s (settleGapEnd t s) := by
  unfold settleGapEnd
  split
  · split
    · exact (timeIsUp_keeps _ _ _).trans ((endTxn_keeps _ _).trans (finish_keeps _))
    · exact .refl _
  · exact .refl _

theorem departBcast_keeps : Keeps s (departBcast t s) := by
  unfold departBcast
  split
  · split
    · exact .refl _
    · next h =>
      split
      · exact flushedHead_keeps s h
      · exact departed_keeps s h
  all_goals exact .refl _

theorem spreadGapEnd_keeps : Keeps s (spreadGapEnd t s) := by
  unfold spreadGapEnd
  split
  · split
    · exact (timeIsUp_keeps _ _ _).trans ((departBcast_keeps _ _).trans ((endTxn_keeps _ _).trans (finish_keeps _)))
    · exact .refl _
  · exact .refl _

theorem afterQuiet_keeps : Keeps s (afterQuiet t s) := by
  unfold afterQuiet
  split
  · exact reportQuiet_keeps _ _
  · exact workDecision_keeps _ _

theorem quietPeriodEnd_keeps : Keeps s (quietPeriodEnd t s) := by
  unfold quietPeriodEnd
  split
  · next due _ =>
    split
    · have idle := (calm_modTrunk (timeIsUp t due s) t (fun k => { k with activity := .idle }) rfl rfl).keeps
      exact (timeIsUp_keeps _ _ _).trans (idle.trans ((afterQuiet_keeps _ _).trans (finish_keeps _)))
    · exact .refl _
  · exact .refl _

theorem reachCall_keeps : Keeps s (reachCall t s) := by
  unfold reachCall
  split
  · exact (reach_calm _ _).keeps
  · exact .refl _

theorem callDue_keeps : Keeps s (callDue t s) := by
  unfold callDue
  split
  · exact (reachCall_keeps _ _).trans ((wake_calm _ _).keeps.trans (finish_keeps _))
  · exact .refl _

end Timers

section Pins

variable (s : State) (t : TrunkId)

/-! ### Pins -/

theorem raiseStartFault_keeps (flt : Quad Bool) : Keeps s (raiseStartFault flt t s) := by
  unfold raiseStartFault
  split
  · exact (raise_calm _ _).keeps
  · exact .refl _

theorem startUp_runs (r : StartReason) (straps : Straps) (flt : Quad Bool) : Runs s (startUp r straps flt s) := by
  have reported : Keeps (afterReset straps flt s) (startUp r straps flt s) :=
    (raise_calm _ _).keeps.trans (((raiseStartFault_keeps _ 0 flt).trans (raiseStartFault_keeps _ 1 flt)).trans
      (((raiseStartFault_keeps _ 2 flt).trans (raiseStartFault_keeps _ 3 flt)).trans (finish_keeps _)))
  exact Runs.trans ((Deed.reset s straps flt).once) reported.runs

theorem silence_calm : Calm s (silence t s) := calm_modTrunk _ _ _ rfl rfl

theorem faultLine_runs : Runs s (faultLine t s) := by
  have marked := (calm_modTrunk (abandon t false s) t (fun k => { k with line := .faulted, rx := .none }) rfl rfl).keeps
  exact (abandon_runs s t false).trans (marked.trans ((raise_calm _ _).keeps.trans ((reportQuiet_keeps _ _).trans (finish_keeps _)))).runs

theorem soundLine_keeps : Keeps s (soundLine t s) := by
  have marked := (calm_modTrunk s t (fun k => { k with line := .sound }) rfl rfl).keeps.trans (raise_calm _ (.line t .sound)).keeps
  unfold soundLine
  simp only
  split
  · exact marked.trans (finish_keeps _)
  · exact marked.trans ((goQuiet_keeps _ _).trans (finish_keeps _))

theorem resetAsserted_keeps : Keeps s (((silence 3 (silence 2 (silence 1 (silence 0 s)))).modLink fun l =>
    { l with tx := .free, restart := none }).setInReset true) :=
  ((silence_calm s 0).keeps.trans (silence_calm _ 1).keeps).trans (((silence_calm _ 2).keeps.trans (silence_calm _ 3).keeps).trans
    ((calm_modLink (silence 3 (silence 2 (silence 1 (silence 0 s)))) (fun l => { l with tx := .free, restart := none }) rfl).keeps.trans
      (calm_setInReset _ true).keeps))

end Pins

/-! ### Every command -/

theorem whileRunning_runs {s s' : State} {f : State → State} (hf : Runs s (f s)) (h : whileRunning s f = .next s') : Runs s s' := by
  unfold whileRunning at h
  split at h
  · cases h
    exact .refl _
  · cases h
    exact hf

theorem exec_runs {c : Instr} {s s' : State} (h : exec c s = .next s') : Runs s s' := by
  cases c with
  | powerOn st flt =>
    cases h
    exact startUp_runs _ _ _ _
  | resetLine st flt =>
    cases h
    exact startUp_runs _ _ _ _
  | lineFault t =>
    refine Runs.trans (calm_setFltPins s (s.fltPins.set t true)).keeps.runs (whileRunning_runs ?_ h)
    split
    · exact faultLine_runs _ _
    · exact .refl _
  | lineSound t =>
    refine Runs.trans (calm_setFltPins s (s.fltPins.set t false)).keeps.runs (whileRunning_runs ?_ h)
    split
    · exact (soundLine_keeps _ _).runs
    · exact .refl _
  | hello q b => exact whileRunning_runs (plainRequest_runs _ _ _ _ fun s => (runHello_keeps s b).runs) h
  | set q b => exact whileRunning_runs (plainRequest_runs _ _ _ _ fun s => (runSet_keeps s b).runs) h
  | get q b => exact whileRunning_runs (plainRequest_runs _ _ _ _ fun s => (runGet_keeps s b).runs) h
  | trunk q b => exact whileRunning_runs (plainRequest_runs _ _ _ _ fun s => runTrunk_runs s b) h
  | pin q b => exact whileRunning_runs (plainRequest_runs _ _ _ _ fun s => (runPin_keeps s b).runs) h
  | group q b => exact whileRunning_runs (plainRequest_runs _ _ _ _ fun s => (runGroup_keeps s b).runs) h
  | forget q b => exact whileRunning_runs (plainRequest_runs _ _ _ _ fun s => (runForget_keeps s b).runs) h
  | lookup q b => exact whileRunning_runs (plainRequest_runs _ _ _ _ fun s => (runLookup_keeps s b).runs) h
  | walk q b => exact whileRunning_runs (plainRequest_runs _ _ _ _ fun s => (runWalk_keeps s b).runs) h
  | sendHeader n => exact whileRunning_runs (sendHeader_runs _ _) h
  | send q b => exact whileRunning_runs (sendMessage_runs _ _ _) h
  | stats q b => exact whileRunning_runs (plainRequest_runs _ _ _ _ fun s => (runStats_keeps s b).runs) h
  | flush q b => exact whileRunning_runs (plainRequest_runs _ _ _ _ fun s => (runFlush_keeps s b).runs) h
  | restart q b => exact whileRunning_runs (plainRequest_runs _ _ _ _ fun s => runRestart_runs s b) h
  | unknownKindRequest k q b => exact whileRunning_runs (plainRequest_runs _ _ _ _ fun s => .refl s) h
  | credit q b => exact whileRunning_runs (grant_runs _ _ fun s => takeCredit_keeps s b) h
  | noted q b => exact whileRunning_runs (grant_runs _ _ fun s => takeNoted_keeps s b) h
  | hostBadMessage => exact whileRunning_runs (spoiled_runs _) h
  | hostMessageAbandon => exact whileRunning_runs (spoiled_runs _) h
  | replyEnd => exact whileRunning_runs (replyEnd_keeps _).runs h
  | noticeMessageEnd => exact whileRunning_runs (noticeEnd_keeps _).runs h
  | telegramEnd => exact whileRunning_runs (telegramEnd_keeps _).runs h
  | noticeTimerExpiry => exact whileRunning_runs (noticeTimerExpiry_keeps _).runs h
  | agingExpiry => exact whileRunning_runs (agingExpiry_keeps _).runs h
  | callDue t => exact whileRunning_runs (callDue_keeps _ _).runs h
  | pollStart t => exact whileRunning_runs (pollStart_keeps _ _).runs h
  | callStart t => exact whileRunning_runs (callStart_keeps _ _).runs h
  | deliverStart t => exact whileRunning_runs (deliverStart_keeps _ _).runs h
  | bcastStart t => exact whileRunning_runs (bcastStart_keeps _ _).runs h
  | confirmStart t => exact whileRunning_runs (confirmStart_keeps _ _).runs h
  | pollEnd t => exact whileRunning_runs (frameEnd_keeps _ _ _ _).runs h
  | callEnd t => exact whileRunning_runs (frameEnd_keeps _ _ _ _).runs h
  | deliverEnd t => exact whileRunning_runs (frameEnd_keeps _ _ _ _).runs h
  | bcastEnd t => exact whileRunning_runs (frameEnd_keeps _ _ _ _).runs h
  | confirmEnd t => exact whileRunning_runs (confirmEnd_keeps _ _).runs h
  | frameStart t => exact whileRunning_runs (frameStart_keeps _ _).runs h
  | dataHeader t hd => exact whileRunning_runs (dataHeader_runs _ _ _) h
  | dataFrame t hd d c data => exact whileRunning_runs (frameEnds_runs _ _ fun s => judgeData_runs s t hd d c data) h
  | nilFrame t hd => exact whileRunning_runs (frameEnds_runs _ _ fun s => judgeNil_runs s t hd) h
  | ackFrame t hd => exact whileRunning_runs (frameEnds_runs _ _ fun s => judgeAck_runs s t hd) h
  | busyFrame t hd => exact whileRunning_runs (frameEnds_runs _ _ fun s => judgeBusy_runs s t hd) h
  | joinFrame t hd p => exact whileRunning_runs (frameEnds_runs _ _ fun s => judgeJoinFrame_runs s t hd p) h
  | failedFrame t => exact whileRunning_runs (frameEnds_runs _ _ fun s => notGood_runs s t) h
  | truncatedFrame t => exact whileRunning_runs (frameEnds_runs _ _ fun s => notGood_runs s t) h
  | fragmentEnd t => exact whileRunning_runs (fragmentEnd_keeps _ _).runs h
  | answerTimeout t => exact whileRunning_runs (answerTimeout_keeps _ _).runs h
  | callWindowExpiry t => exact whileRunning_runs (callWindowExpiry_keeps _ _).runs h
  | settleGapEnd t => exact whileRunning_runs (settleGapEnd_keeps _ _).runs h
  | spreadGapEnd t => exact whileRunning_runs (spreadGapEnd_keeps _ _).runs h
  | quietPeriodEnd t => exact whileRunning_runs (quietPeriodEnd_keeps _ _).runs h
  | resetAsserted =>
    cases h
    exact (resetAsserted_keeps s).runs

/-- Every step is a chain of deeds. -/
theorem step_runs {s s' : State} (h : step s = .next s') : Runs s s' := by
  unfold step at h
  split at h
  · cases h
    unfold tick
    split
    · exact .refl _
    · exact (calm_setClock _ _).keeps.runs
  · next c rest _ => exact (calm_setPending s rest).keeps.runs.trans (exec_runs h)

end Sys2Proof.Machine
end


section
/-!
PROOFS. What the deeds do to the tickets, the references, the reservations and the stations that the laws read.
-/

namespace Sys2Proof.Machine

/-! ### References named -/

theorem namedAt_setFifo (s : State) (e : Port) (c : Cls) (q : List QEntry) (n : Nat) :
    (setFifo e c q s).namedAt n e + namedIn n (s.fifo e c) = s.namedAt n e + namedIn n q := by
  unfold State.namedAt
  simp only [fifo_setFifo, true_and]
  match c with
  | 0 | 1 | 2 | 3 => simp; omega

theorem namedAt_setFifo_of_ne (s : State) {e e' : Port} (h : e' ≠ e) (c : Cls) (q : List QEntry) (n : Nat) :
    (setFifo e c q s).namedAt n e' = s.namedAt n e' := by
  unfold State.namedAt
  simp only [fifo_setFifo, h, false_and, if_false]

/-- A FIFO rewritten changes the count of a ticket's entries by what it lost and gained. -/
theorem named_setFifo (s : State) (e : Port) (c : Cls) (q : List QEntry) (n : Nat) :
    (setFifo e c q s).named n + namedIn n (s.fifo e c) = s.named n + namedIn n q := by
  have at_e := namedAt_setFifo s e c q n
  have others := fun e' (h : e' ≠ e) => namedAt_setFifo_of_ne s h c q n
  unfold State.named
  cases e with
  | host =>
    rw [others (.trunk 0) (by simp), others (.trunk 1) (by simp), others (.trunk 2) (by simp), others (.trunk 3) (by simp)]
    omega
  | trunk t =>
    rw [others .host (by simp)]
    match t with
    | 0 =>
      rw [others (.trunk 1) (by simp), others (.trunk 2) (by simp), others (.trunk 3) (by simp)]
      omega
    | 1 =>
      rw [others (.trunk 0) (by simp), others (.trunk 2) (by simp), others (.trunk 3) (by simp)]
      omega
    | 2 =>
      rw [others (.trunk 0) (by simp), others (.trunk 1) (by simp), others (.trunk 3) (by simp)]
      omega
    | 3 =>
      rw [others (.trunk 0) (by simp), others (.trunk 1) (by simp), others (.trunk 2) (by simp)]
      omega

theorem named_of_empty {s : State} (h : ∀ e c, s.fifo e c = []) (n : Nat) : s.named n = 0 := by
  simp only [State.named, State.namedAt, h]
  rfl

theorem named_appendEntry (s : State) (e : Port) (c : Cls) (q : QEntry) (n : Nat) :
    (appendEntry e c q s).named n = s.named n + namedIn n [q] := by
  have written := named_setFifo s e c (s.fifo e c ++ [q]) n
  have woken : (appendEntry e c q s).named n = (setFifo e c (s.fifo e c ++ [q]) s).named n :=
    named_congr (wakePort_fifo e) n
  rw [namedIn_append] at written
  omega

/-- An acceptance's entries name its ticket once for each egress needed. -/
theorem named_appendAll (s : State) (n : Nat) (c : Cls) (needs : List Need) (m : Nat) :
    (appendAll n c needs s).named m = s.named m + if m = n then needs.length else 0 := by
  unfold appendAll
  induction needs generalizing s with
  | nil => simp
  | cons x xs ih =>
    rw [List.foldl_cons, ih, named_appendEntry]
    by_cases h : m = n
    · simp only [h, if_true, List.length_cons, namedIn, List.filter_cons, decide_true, List.filter_nil]
      simp
      omega
    · simp [h, namedIn, Ne.symm h]

/-! ### An acceptance -/

theorem orNoRoute_ne_nil {l needs : List Need} (h : orNoRoute l = .ok needs) : needs ≠ [] := by
  unfold orNoRoute at h
  split at h
  · cases h
  · next hn =>
    cases h
    exact hn

/-- A telegram is accepted on one egress at least (06 R117 to R123). -/
theorem chooseEgresses_ne_nil {s : State} {p : Port} {d : Num} {needs : List Need} (h : s.chooseEgresses p d = .ok needs) :
    needs ≠ [] := by
  have unknown (h : s.routeUnknown = .ok needs) : needs ≠ [] := by
    unfold State.routeUnknown at h
    split at h
    · cases h
      simp
    · split at h
      · cases h
      · exact orNoRoute_ne_nil h
  unfold State.chooseEgresses at h
  split at h
  · cases h
    simp
  · split at h
    · split at h
      · exact unknown h
      · split at h
        · exact unknown h
        · split at h
          · cases h
          · cases h
            simp
    · split at h
      · split at h
        · cases h
        · exact orNoRoute_ne_nil h
      · exact orNoRoute_ne_nil h

/-- An accepted telegram has an egress, and its source an entry where it arrived on a trunk (06 R114). -/
theorem route_ok_needs {s : State} {p : Port} {m d : Num} {cls : Byte} {c : Cls} {needs : List Need}
    (h : s.route p m d cls = .ok (c, needs)) : needs ≠ [] ∧ s.sourceKnown p m = true := by
  unfold State.route at h
  split at h
  · split at h
    · cases h
    · next hk =>
      split at h
      · cases h
      · split at h
        · cases h
        · split at h
          · cases h
          · next r hr =>
            split at h
            · cases h
              exact ⟨chooseEgresses_ne_nil hr, by simpa using hk⟩
            · cases h
  · cases h

theorem chargeSource_store (s : State) (t : TrunkId) (n : Num) (b : Bool) (k : Nat) : (chargeSource t n b k s).store = s.store := by
  unfold chargeSource
  split <;> rfl

theorem chargeArrival_store (s : State) (p : Port) (n : Num) (b : Bool) (k : Nat) : (chargeArrival p n b k s).store = s.store := by
  cases p with
  | trunk t => exact chargeSource_store _ _ _ _ _
  | host => rfl

theorem chargeArrival_trunks (s : State) (p : Port) (n : Num) (b : Bool) (k : Nat) : (chargeArrival p n b k s).trunks = s.trunks := by
  cases p with
  | trunk t => exact chargeSource_trunks _ _ _ _ _
  | host => rfl

theorem chargeArrival_hostEgress (s : State) (p : Port) (n : Num) (b : Bool) (k : Nat) :
    (chargeArrival p n b k s).hostEgress = s.hostEgress := by
  cases p with
  | trunk t => exact chargeSource_hostEgress _ _ _ _ _
  | host => rfl

theorem appendAll_txn (s : State) (n : Nat) (c : Cls) (needs : List Need) (t : TrunkId) :
    ((appendAll n c needs s).trunk t).txn = (s.trunk t).txn := by
  unfold appendAll
  induction needs generalizing s with
  | nil => rfl
  | cons x xs ih =>
    rw [List.foldl_cons, ih]
    have woken : ((appendEntry x.1 c ⟨n, x.2, 0, false, false⟩ s).trunk t) = (setFifo x.1 c (s.fifo x.1 c ++ [⟨n, x.2, 0, false, false⟩]) s).trunk t := by
      unfold appendEntry
      cases x.1 with
      | host => rfl
      | trunk u => exact trunk_of_trunks (wake_trunks _ _) t
    rw [woken, setFifo_txn]

section Accepted

variable {s : State} {p : Port} {m : Num} {b : Bool} {n : Nat} {d : Num} {cls : Byte} {c : Cls} {needs : List Need}

theorem accepted_eq (h : s.route p m d cls = .ok (c, needs)) :
    (routeArrival p m b n d cls s).1 =
      chargeArrival p m b (s.ticketBlocks n) (storeTicket n needs.length (appendAll n c needs s)) := by
  simp only [routeArrival, h]

theorem accepted_ticket (h : s.route p m d cls = .ok (c, needs)) {k : Ticket} (hk : s.ticket n = some k) (i : Nat) :
    (routeArrival p m b n d cls s).1.ticket i =
      if i = n then some { k with refs := needs.length, storedAt := some s.timebase } else s.ticket i := by
  have appended := appendAll_appended (s := s) n c needs
  rw [accepted_eq h, ticket_congr (chargeArrival_store _ _ _ _ _),
    storeTicket_ticket ((ticket_congr appended.store n).trans hk), ticket_congr appended.store]
  unfold State.timebase
  rw [appended.clock]

theorem accepted_named (h : s.route p m d cls = .ok (c, needs)) (i : Nat) :
    (routeArrival p m b n d cls s).1.named i = s.named i + if i = n then needs.length else 0 := by
  rw [accepted_eq h, ← named_appendAll s n c needs i]
  refine named_congr (fun e k => fifo_of_trunks ?_ ?_ e k) i
  · rw [chargeArrival_trunks, storeTicket_trunks]
  · rw [chargeArrival_hostEgress, storeTicket_hostEgress]

theorem accepted_arriving (h : s.route p m d cls = .ok (c, needs)) (t : TrunkId) :
    (routeArrival p m b n d cls s).1.arriving t = s.arriving t := by
  unfold State.arriving
  rw [accepted_eq h, trunk_of_trunks (chargeArrival_trunks _ _ _ _ _), trunk_of_trunks (storeTicket_trunks _ _ _), appendAll_txn]

end Accepted

/-! ### Grants, releases, drops -/

section Store

variable {s : State}

theorem ticket_of_mem {k : Ticket} (hs : s.store.tickets.Pairwise fun a b => a.num < b.num) (h : k ∈ s.store.tickets) :
    s.ticket k.num = some k := by
  unfold State.ticket
  generalize s.store.tickets = l at hs h
  induction l with
  | nil => cases h
  | cons x xs ih =>
    obtain ⟨lower, rest⟩ := List.pairwise_cons.mp hs
    rcases List.mem_cons.mp h with rfl | h
    · simp
    · have hx : x.num ≠ k.num := Nat.ne_of_lt (lower k h)
      rw [List.find?_cons_of_neg (by simpa using hx)]
      exact ih rest h

theorem mem_of_ticket {n : Nat} {k : Ticket} (h : s.ticket n = some k) : k ∈ s.store.tickets := List.mem_of_find?_eq_some h

/-- The lowest FREE number is no ticket's. -/
theorem ticket_lowestFree (hs : s.store.tickets.Pairwise fun a b => a.num < b.num) : s.ticket s.lowestFree = none := by
  unfold State.ticket
  rw [List.find?_eq_none]
  intro x hx
  have := ne_lowestFrom hs (fun _ _ => Nat.zero_le _) x hx
  exact decide_eq_false this ▸ Bool.false_ne_true

/-- The ticket that a reservation is granted (03 R44). -/
def grantedTicket (s : State) (p : Port) (m : Num) (l : Nat) : Ticket := ⟨s.lowestFree, m, none, none, p, l, blockCount l, [], 0, none⟩

theorem granted_ticket (p : Port) (m : Num) (l i : Nat) :
    (s.setStore (s.store.grant s.lowestFree p m l)).ticket i =
      if i = s.lowestFree then some (grantedTicket s p m l) else s.ticket i := find_putTicketInto _ _ _

theorem releaseFilling_ticket (n i : Nat) : (releaseFilling n s).ticket i = if i = n then none else s.ticket i := by
  unfold releaseFilling
  split
  · next h =>
    split
    · next hi => rw [hi, h]
    · rfl
  · next k h =>
    have hn := ticket_num h
    unfold State.ticket
    rw [testRecovered_tickets]
    simp only [State.setStore_store, Store.release, hn]
    exact find_release _

theorem rising_filter {l : List Ticket} (h : l.Pairwise fun a b => a.num < b.num) (f : Ticket → Bool) :
    (l.filter f).Pairwise fun a b => a.num < b.num := h.sublist List.filter_sublist

theorem rising_releaseFilling (h : s.store.tickets.Pairwise fun a b => a.num < b.num) (n : Nat) :
    (releaseFilling n s).store.tickets.Pairwise fun a b => a.num < b.num := by
  unfold releaseFilling
  split
  · exact h
  · rw [testRecovered_tickets]
    exact rising_filter h _

theorem rising_dropRef (h : s.store.tickets.Pairwise fun a b => a.num < b.num) (n : Nat) :
    (dropRef n s).store.tickets.Pairwise fun a b => a.num < b.num := by
  unfold dropRef
  split
  · exact h
  · split
    · rw [testRecovered_tickets, reportRelease_store]
      exact rising_filter h _
    · exact putTicketInto_rising h

theorem rising_fillTicket (h : s.store.tickets.Pairwise fun a b => a.num < b.num) (n : Nat) (d : Num) (c : Byte) (data : List Byte) :
    (fillTicket n d c data s).store.tickets.Pairwise fun a b => a.num < b.num := by
  unfold fillTicket
  split
  · exact h
  · exact putTicketInto_rising h

theorem rising_storeTicket (h : s.store.tickets.Pairwise fun a b => a.num < b.num) (n r : Nat) :
    (storeTicket n r s).store.tickets.Pairwise fun a b => a.num < b.num := by
  unfold storeTicket
  split
  · exact h
  · exact putTicketInto_rising h

theorem rising_accepted {p : Port} {m : Num} {b : Bool} {n : Nat} {d : Num} {cls : Byte} {c : Cls} {needs : List Need}
    (h : s.store.tickets.Pairwise fun a b => a.num < b.num) (hr : s.route p m d cls = .ok (c, needs)) :
    (routeArrival p m b n d cls s).1.store.tickets.Pairwise fun a b => a.num < b.num := by
  rw [accepted_eq hr, chargeArrival_store]
  exact rising_storeTicket (by rwa [(appendAll_appended n c needs).store]) _ _

end Store

/-! ### Starting over -/

/-- No ticket, no entry, no transaction, nothing in reception. -/
structure State.Cleared (s : State) : Prop where
  tickets : s.store.tickets = []
  fifo : ∀ e c, s.fifo e c = []
  txn : ∀ t, (s.trunk t).txn = none
  rx : s.link.rx = .hunting

theorem restartTrunk_store (t : TrunkId) (s : State) : (restartTrunk t s).store = s.store := by
  unfold restartTrunk
  simp only
  split <;> rfl

theorem restartTrunk_dir (t : TrunkId) (s : State) : (restartTrunk t s).dir = s.dir := by
  unfold restartTrunk
  simp only
  split <;> rfl

theorem restartTrunk_hostEgress (t : TrunkId) (s : State) : (restartTrunk t s).hostEgress = s.hostEgress := by
  unfold restartTrunk
  simp only
  split <;> rfl

theorem goQuiet_txn (t u : TrunkId) (s : State) : ((goQuiet t s).trunk u).txn = (s.trunk u).txn := by
  unfold goQuiet startTimer
  simp only [State.modTrunk_trunk]
  split
  · next h => simp [h]
  · rfl

theorem goQuiet_egress (t u : TrunkId) (s : State) : ((goQuiet t s).trunk u).egress = (s.trunk u).egress := by
  unfold goQuiet startTimer
  simp only [State.modTrunk_trunk]
  split
  · next h => simp [h]
  · rfl

theorem restartTrunk_txn (t u : TrunkId) (s : State) :
    ((restartTrunk t s).trunk u).txn = if u = t then none else (s.trunk u).txn := by
  unfold restartTrunk
  simp only
  split
  · rw [goQuiet_txn, State.modTrunk_trunk]
    split <;> rfl
  · rw [State.modTrunk_trunk]
    split <;> rfl

theorem restartTrunk_egress (t u : TrunkId) (s : State) :
    ((restartTrunk t s).trunk u).egress = if u = t then .empty else (s.trunk u).egress := by
  unfold restartTrunk
  simp only
  split
  · rw [goQuiet_egress, State.modTrunk_trunk]
    split <;> rfl
  · rw [State.modTrunk_trunk]
    split <;> rfl

/-- The state of a RESTART's taking once the trunks are done. -/
def restartedTrunks (s : State) : State :=
  restartTrunk 3 (restartTrunk 2 (restartTrunk 1 (restartTrunk 0 ((restartStore s).setHostEgress (Quad.all [])))))

theorem takeRestart_eq (s : State) :
    takeRestart false s = restartLink s.restartFigures (restartDirectory (restartedTrunks s)) := by
  unfold takeRestart restartedTrunks
  simp only [Bool.false_eq_true, if_false]

theorem restartLink_fields (f : RestartFigures) (s : State) :
    (restartLink f (restartDirectory s)).store = s.store ∧ (restartLink f (restartDirectory s)).hostEgress = s.hostEgress ∧
      (restartLink f (restartDirectory s)).trunks = s.trunks ∧
      (restartLink f (restartDirectory s)).dir = s.dir.filterMap restartEntry ∧
      (restartLink f (restartDirectory s)).link.rx = .hunting := ⟨rfl, rfl, rfl, rfl, rfl⟩

theorem restartedTrunks_store (s : State) : (restartedTrunks s).store = (restartStore s).store := by
  simp only [restartedTrunks, restartTrunk_store]
  rfl

theorem restartedTrunks_dir (s : State) : (restartedTrunks s).dir = s.dir := by
  simp only [restartedTrunks, restartTrunk_dir]
  rfl

theorem restartedTrunks_hostEgress (s : State) : (restartedTrunks s).hostEgress = Quad.all [] := by
  simp only [restartedTrunks, restartTrunk_hostEgress]
  rfl

theorem restartedTrunks_egress (t : TrunkId) (s : State) : ((restartedTrunks s).trunk t).egress = .empty := by
  simp only [restartedTrunks, restartTrunk_egress]
  match t with
  | 0 | 1 | 2 | 3 => rfl

theorem restartedTrunks_txn (t : TrunkId) (s : State) : ((restartedTrunks s).trunk t).txn = none := by
  simp only [restartedTrunks, restartTrunk_txn]
  match t with
  | 0 | 1 | 2 | 3 => rfl

theorem takeRestart_cleared (s : State) : (takeRestart false s).Cleared := by
  rw [takeRestart_eq]
  obtain ⟨store, egress, trunks, -, rx⟩ := restartLink_fields s.restartFigures (restartedTrunks s)
  refine ⟨?_, fun e c => ?_, fun t => ?_, rx⟩
  · rw [store, restartedTrunks_store]
    rfl
  · rw [fifo_of_trunks trunks egress]
    cases e with
    | host =>
      rw [State.fifo, restartedTrunks_hostEgress]
      exact Quad.get_all _ _
    | trunk t =>
      rw [State.fifo, restartedTrunks_egress]
      exact Quad.get_all _ _
  · rw [trunk_of_trunks trunks, restartedTrunks_txn]

theorem takeRestart_dir (s : State) : (takeRestart false s).dir = s.dir.filterMap restartEntry := by
  rw [takeRestart_eq]
  obtain ⟨-, -, -, dir, -⟩ := restartLink_fields s.restartFigures (restartedTrunks s)
  rw [dir, restartedTrunks_dir]

theorem afterReset_cleared (straps : Straps) (flt : Quad Bool) (s : State) : (afterReset straps flt s).Cleared where
  tickets := rfl
  fifo e c := by
    cases e with
    | host => exact Quad.get_all _ _
    | trunk t =>
      change ((afterReset straps flt s).trunk t).egress.fifo.get c = []
      rw [afterReset_trunk]
      exact Quad.get_all _ _
  txn t := by rw [afterReset_trunk]; rfl
  rx := rfl

end Sys2Proof.Machine
end


section
/-!
PROOFS. The law of references and the law of arrivals (03 R42, R44, R48, R50), deed by deed.
-/

namespace Sys2Proof.Machine

/-! ### The laws between two deeds -/

/-- Ticket `n` is FILLING and belongs to port `p`'s arrival, on a trunk from station `m`. -/
def State.awaits (s : State) (p : Port) (n : Nat) (m : Num) : Prop :=
  ∃ k, s.ticket n = some k ∧ k.storedAt = none ∧ k.port = p ∧ (p ≠ .host → k.source = m)

/-- A ticket agrees with its count of references. -/
structure Ticket.Agrees (k : Ticket) (r : Nat) : Prop where
  refs : r = k.refs
  stored : k.storedAt.isSome = true ↔ 0 < k.refs
  body : k.storedAt.isSome = true → k.body.isSome = true

/-- The references to ticket `n`: the entries that name it and those owed. -/
def Cfg.owed (c : Cfg) (n : Nat) : Nat := c.s.named n + c.debts.count n

/-- The tickets rise, agree with the references, and those that the ports hold or have in hand are their arrivals. -/
structure Cfg.Sound (c : Cfg) : Prop where
  rising : c.s.store.tickets.Pairwise fun a b => a.num < b.num
  free : ∀ n, c.s.ticket n = none → c.owed n = 0
  used : ∀ n k, c.s.ticket n = some k → k.Agrees (c.owed n)
  trunks : ∀ t k n, ¬c.out (.trunk t) → c.s.arriving t = some (k, some (.granted n)) → ∃ m, k = .poll m ∧ c.s.awaits (.trunk t) n m
  host : ∀ b n, ¬c.out .host → c.s.link.rx = .collecting b (some (.granted n)) → ∃ m, c.s.awaits .host n m
  hand : ∀ p n m, c.hand = some (p, some (n, m)) → c.s.awaits p n m

theorem awaits_congr {s s' : State} (h : ∀ n, s'.ticket n = s.ticket n) {p : Port} {n : Nat} {m : Num} (ha : s.awaits p n m) :
    s'.awaits p n m := by
  unfold State.awaits
  rwa [h]

theorem arriving_eq_some {s : State} {t : TrunkId} {k : TxnKind} {h : Option Held} :
    s.arriving t = some (k, h) ↔ ∃ x, (s.trunk t).txn = some x ∧ x.kind = k ∧ x.held = h := by
  simp only [State.arriving, Txn.arrival, Option.map_eq_some_iff, Prod.mk.injEq]

/-- What a port of a sound exchange holds is not what another has in hand. -/
theorem awaits_ne {s : State} {p q : Port} {i n : Nat} {m m' : Num} (h : s.awaits p i m) (h' : s.awaits q n m') (hpq : p ≠ q) : i ≠ n := by
  rintro rfl
  obtain ⟨k, hk, -, hp, -⟩ := h
  obtain ⟨k', hk', -, hq, -⟩ := h'
  rw [hk] at hk'
  cases hk'
  exact hpq (hp.symm.trans hq)

namespace Cfg.Sound

variable {c d : Cfg}

/-- A ticket in hand has no reference. -/
theorem awaited (h : c.Sound) {p : Port} {n : Nat} {m : Num} (ha : c.s.awaits p n m) : c.owed n = 0 := by
  obtain ⟨k, hk, hs, -⟩ := ha
  have agrees := h.used n k hk
  have : ¬0 < k.refs := fun hr => by
    have := agrees.stored.mpr hr
    simp [hs] at this
  have := agrees.refs
  omega

/-- Deeds that leave the transactions, the receiver and what is in hand alone. -/
theorem of_store (h : c.Sound) (rising : d.s.store.tickets.Pairwise fun a b => a.num < b.num)
    (free : ∀ n, d.s.ticket n = none → d.owed n = 0) (used : ∀ n k, d.s.ticket n = some k → k.Agrees (d.owed n))
    (arriving : ∀ t, d.s.arriving t = c.s.arriving t) (rx : d.s.link.rx = c.s.link.rx) (out : ∀ p, c.out p → d.out p)
    (held : ∀ p n m, ¬d.out p → c.s.awaits p n m → d.s.awaits p n m)
    (hand : ∀ p n m, d.hand = some (p, some (n, m)) → d.s.awaits p n m) : d.Sound where
  rising := rising
  free := free
  used := used
  trunks t k n ho ha := by
    rw [arriving] at ha
    obtain ⟨m, hk, hm⟩ := h.trunks t k n (fun hc => ho (out _ hc)) ha
    exact ⟨m, hk, held _ _ _ ho hm⟩
  host b n ho ha := by
    rw [rx] at ha
    obtain ⟨m, hm⟩ := h.host b n (fun hc => ho (out _ hc)) ha
    exact ⟨m, held _ _ _ ho hm⟩
  hand := hand

/-- Deeds that leave the tickets and the references alone. -/
theorem of_ports (h : c.Sound) (tickets : d.s.store.tickets = c.s.store.tickets) (owed : ∀ n, d.owed n = c.owed n)
    (trunks : ∀ t k n, ¬d.out (.trunk t) → d.s.arriving t = some (k, some (.granted n)) →
      ∃ m, k = .poll m ∧ c.s.awaits (.trunk t) n m)
    (host : ∀ b n, ¬d.out .host → d.s.link.rx = .collecting b (some (.granted n)) → ∃ m, c.s.awaits .host n m)
    (hand : ∀ p n m, d.hand = some (p, some (n, m)) → c.s.awaits p n m) : d.Sound := by
  have ticket : ∀ n, d.s.ticket n = c.s.ticket n := fun n => by
    unfold State.ticket
    rw [tickets]
  refine ⟨tickets ▸ h.rising, fun n hn => ?_, fun n k hk => ?_, fun t k n ho ha => ?_, fun b n ho ha => ?_, fun p n m hd => ?_⟩
  · rw [owed]
    exact h.free n (ticket n ▸ hn)
  · rw [owed]
    exact h.used n k (ticket n ▸ hk)
  · obtain ⟨m, hk, hm⟩ := trunks t k n ho ha
    exact ⟨m, hk, awaits_congr ticket hm⟩
  · obtain ⟨m, hm⟩ := host b n ho ha
    exact ⟨m, awaits_congr ticket hm⟩
  · exact awaits_congr ticket (hand p n m hd)

/-- Deeds that leave alone all that is read here but the debts and the FIFOs, in balance. -/
theorem of_calm (h : c.Sound) (tickets : d.s.store.tickets = c.s.store.tickets) (owed : ∀ n, d.owed n = c.owed n)
    (arriving : ∀ t, d.s.arriving t = c.s.arriving t) (rx : d.s.link.rx = c.s.link.rx) (hand : d.hand = c.hand) : d.Sound := by
  have out : ∀ p, d.out p ↔ c.out p := fun p => by unfold Cfg.out; rw [hand]
  refine h.of_ports tickets owed (fun t k n ho ha => ?_) (fun b n ho ha => ?_) fun p n m hd => h.hand p n m (hand ▸ hd)
  · exact h.trunks t k n (fun hc => ho ((out _).mpr hc)) (arriving t ▸ ha)
  · exact h.host b n (fun hc => ho ((out _).mpr hc)) (rx ▸ ha)

end Cfg.Sound

/-- Nothing in use, nothing held, nothing owed. -/
theorem State.Cleared.sound {s : State} (h : s.Cleared) : Cfg.Sound ⟨s, [], none⟩ where
  rising := by
    rw [h.tickets]
    exact List.Pairwise.nil
  free n _ := by simp [Cfg.owed, named_of_empty h.fifo]
  used n k hk := by
    simp only [State.ticket, h.tickets] at hk
    cases hk
  trunks t k n _ ha := by
    simp only [State.arriving, h.txn] at ha
    cases ha
  host b n _ hr := by
    simp only [h.rx] at hr
    cases hr
  hand _ _ _ hd := by cases hd

/-! ### The deeds on the store -/

section Deeds

variable {s : State} {D : List Nat} {o : Option (Port × Option (Nat × Num))}

theorem sound_fifo {D' : List Nat} {e : Port} {c : Cls} {q : List QEntry}
    (hq : ∀ n, namedIn n q + D'.count n = namedIn n (s.fifo e c) + D.count n) (h : Cfg.Sound ⟨s, D, o⟩) :
    Cfg.Sound ⟨setFifo e c q s, D', o⟩ := by
  refine h.of_calm (congrArg Store.tickets (setFifo_store _ _ _)) (fun n => ?_) (fun t => ?_) (congrArg HostLink.rx (setFifo_link _ _ _)) rfl
  · have := hq n
    have := named_setFifo s e c q n
    simp only [Cfg.owed]
    omega
  · unfold State.arriving
    rw [setFifo_txn]

theorem sound_drop {n : Nat} (h : Cfg.Sound ⟨s, n :: D, o⟩) : Cfg.Sound ⟨dropRef n s, D, o⟩ := by
  have named : ∀ i, (dropRef n s).named i = s.named i := named_congr fun e c => dropRef_fifo n e c
  have owed : ∀ i, Cfg.owed ⟨s, n :: D, o⟩ i = Cfg.owed ⟨dropRef n s, D, o⟩ i + if i = n then 1 else 0 := fun i => by
    simp only [Cfg.owed, named, List.count_cons, beq_iff_eq, Nat.add_assoc, eq_comm (a := i)]
  have here := owed n
  simp only [if_true] at here
  obtain ⟨k, hk⟩ : ∃ k, s.ticket n = some k := by
    cases hn : s.ticket n with
    | some k => exact ⟨k, rfl⟩
    | none =>
      have := h.free n hn
      omega
  have agrees := h.used n k hk
  have refs := agrees.refs
  have stored := agrees.stored.mpr (by omega)
  have ticket := dropRef_ticket (s := s) n
  simp only [hk, Option.bind_some, Ticket.dropped, Nat.one_ne_zero, if_false] at ticket
  have others : ∀ i, i ≠ n → (dropRef n s).ticket i = s.ticket i ∧ Cfg.owed ⟨dropRef n s, D, o⟩ i = Cfg.owed ⟨s, n :: D, o⟩ i :=
    fun i hi => by
      have := owed i
      rw [if_neg hi] at this
      exact ⟨(ticket i).trans (if_neg hi), by omega⟩
  have waits : ∀ p i m, s.awaits p i m → (dropRef n s).awaits p i m := by
    rintro p i m ⟨j, hj, hs, hp⟩
    have hi : i ≠ n := by
      rintro rfl
      rw [hk] at hj
      cases hj
      simp [hs] at stored
    exact ⟨j, (others i hi).1.trans hj, hs, hp⟩
  refine h.of_store (rising_dropRef h.rising n) (fun i hi => ?_) (fun i j hj => ?_) (fun t => ?_) ?_ (fun _ hc => hc)
    (fun p i m _ => waits p i m) fun p i m hd => waits p i m (h.hand p i m hd)
  · by_cases hin : i = n
    · subst hin
      rw [ticket, if_pos rfl] at hi
      split at hi
      · omega
      · cases hi
    · obtain ⟨same, balance⟩ := others i hin
      rw [balance]
      exact h.free i (same ▸ hi)
  · by_cases hin : i = n
    · subst hin
      rw [ticket, if_pos rfl] at hj
      split at hj
      · cases hj
      · cases hj
        exact ⟨by simp only; omega, ⟨fun _ => by simp only; omega, fun _ => stored⟩, agrees.body⟩
    · obtain ⟨same, balance⟩ := others i hin
      rw [balance]
      exact h.used i j (same ▸ hj)
  · unfold State.arriving
    rw [trunk_of_trunks (dropRef_trunks s n)]
  · exact (dropRef_services s n).link.rx

theorem sound_grant {p : Port} {m : Num} {l : Nat} (h : Cfg.Sound ⟨s, D, some (p, none)⟩) :
    Cfg.Sound ⟨s.setStore (s.store.grant s.lowestFree p m l), D, some (p, some (s.lowestFree, m))⟩ := by
  have free := ticket_lowestFree h.rising
  have ticket := granted_ticket (s := s) p m l
  have owed : ∀ i, Cfg.owed ⟨s.setStore (s.store.grant s.lowestFree p m l), D, some (p, some (s.lowestFree, m))⟩ i
      = Cfg.owed ⟨s, D, some (p, none)⟩ i := fun i => rfl
  have waits : ∀ q i m', s.awaits q i m' → (s.setStore (s.store.grant s.lowestFree p m l)).awaits q i m' := by
    rintro q i m' ⟨j, hj, rest⟩
    refine ⟨j, ?_, rest⟩
    rw [ticket, if_neg, hj]
    rintro rfl
    rw [free] at hj
    cases hj
  refine h.of_store (putTicketInto_rising h.rising) (fun i hi => ?_) (fun i j hj => ?_) (fun _ => rfl) rfl
    (fun q hq => ?_) (fun q i m' _ => waits q i m') fun q i m' hd => ?_
  · rw [ticket] at hi
    split at hi
    · cases hi
    · exact h.free i hi
  · rw [ticket] at hj
    split at hj
    · next hi =>
      cases hj
      refine ⟨?_, by simp [grantedTicket], by simp [grantedTicket]⟩
      rw [owed, hi]
      exact h.free _ free
    · exact h.used i j hj
  · obtain ⟨_, hq⟩ := hq
    cases hq
    exact ⟨_, rfl⟩
  · cases hd
    exact ⟨grantedTicket s p m l, by rw [ticket, if_pos rfl], rfl, rfl, fun _ => rfl⟩

theorem sound_fill {p : Port} {n : Nat} {m : Num} {d : Num} {cls : Byte} {data : List Byte}
    (h : Cfg.Sound ⟨s, D, some (p, some (n, m))⟩) : Cfg.Sound ⟨fillTicket n d cls data s, D, some (p, some (n, m))⟩ := by
  obtain ⟨k, hk, hs, hp, hm⟩ := h.hand p n m rfl
  have ticket := fillTicket_ticket hk d cls data
  have owed : ∀ i, Cfg.owed ⟨fillTicket n d cls data s, D, some (p, some (n, m))⟩ i = Cfg.owed ⟨s, D, some (p, some (n, m))⟩ i :=
    fun i => congrArg (· + D.count i) (named_congr (fun e c => fifo_of_trunks (fillTicket_trunks _ _ _ _ _) (fillTicket_hostEgress _ _ _ _ _) e c) i)
  have waits : ∀ q i m', s.awaits q i m' → (fillTicket n d cls data s).awaits q i m' := by
    rintro q i m' ⟨j, hj, hjs, hjp, hjm⟩
    by_cases hi : i = n
    · subst hi
      rw [hk] at hj
      cases hj
      exact ⟨_, (ticket i).trans (if_pos rfl), hjs, hjp, hjm⟩
    · exact ⟨j, (ticket i).trans ((if_neg hi).trans hj), hjs, hjp, hjm⟩
  refine h.of_store (rising_fillTicket h.rising n d cls data) (fun i hi => ?_) (fun i j hj => ?_) (fun t => ?_)
    (congrArg HostLink.rx (fillTicket_link _ _ _ _ _)) (fun _ hq => hq) (fun q i m' _ => waits q i m')
    fun q i m' hd => waits q i m' (h.hand q i m' hd)
  · rw [owed]
    rw [ticket] at hi
    split at hi
    · cases hi
    · exact h.free i hi
  · rw [owed]
    rw [ticket] at hj
    split at hj
    · next hi =>
      cases hj
      have agrees := h.used n k hk
      exact ⟨hi ▸ agrees.refs, agrees.stored, fun hc => by simp [hs] at hc⟩
    · exact h.used i j hj
  · unfold State.arriving
    rw [trunk_of_trunks (fillTicket_trunks _ _ _ _ _)]

/-- A ticket in hand that is FILLING no longer: what the other ports hold is as it was. -/
theorem awaits_others {s' : State} {p : Port} {n : Nat} {m : Num} (ha : s.awaits p n m)
    (ticket : ∀ i, i ≠ n → s'.ticket i = s.ticket i) {q : Port} (hq : q ≠ p) {i : Nat} {m' : Num} (h : s.awaits q i m') :
    s'.awaits q i m' := by
  have hi := awaits_ne h ha hq
  obtain ⟨j, hj, rest⟩ := h
  exact ⟨j, (ticket i hi).trans hj, rest⟩

theorem sound_release {p : Port} {n : Nat} {m : Num} (h : Cfg.Sound ⟨s, D, some (p, some (n, m))⟩) :
    Cfg.Sound ⟨releaseFilling n s, D, some (p, none)⟩ := by
  have ha := h.hand p n m rfl
  have ticket := releaseFilling_ticket (s := s) n
  have owed : ∀ i, Cfg.owed ⟨releaseFilling n s, D, some (p, none)⟩ i = Cfg.owed ⟨s, D, some (p, some (n, m))⟩ i :=
    fun i => congrArg (· + D.count i) (named_congr (fun e c => fifo_of_trunks (releaseFilling_trunks s n) (releaseFilling_hostEgress s n) e c) i)
  refine h.of_store (rising_releaseFilling h.rising n) (fun i hi => ?_) (fun i j hj => ?_) (fun t => ?_)
    (releaseFilling_services s n).link.rx (fun q hq => ?_) (fun q i m' hq => ?_) fun q i m' hd => by cases hd
  · rw [owed]
    by_cases hin : i = n
    · rw [hin]
      exact h.awaited ha
    · rw [ticket, if_neg hin] at hi
      exact h.free i hi
  · rw [owed]
    rw [ticket] at hj
    split at hj
    · cases hj
    · exact h.used i j hj
  · unfold State.arriving
    rw [trunk_of_trunks (releaseFilling_trunks s n)]
  · obtain ⟨_, hq⟩ := hq
    cases hq
    exact ⟨_, rfl⟩
  · refine awaits_others ha (fun i hi => (ticket i).trans (if_neg hi)) ?_
    rintro rfl
    exact hq ⟨_, rfl⟩

theorem body_of_written {k : Ticket} {a : Nat} (h : k.storedAt = some a) (hd : k.dest.isSome = true) {b : Byte} (hc : k.cls = some b)
    (hb : b.toNat < 4) : k.body.isSome = true := by
  obtain ⟨d, hd⟩ := Option.isSome_iff_exists.mp hd
  simp [Ticket.body, h, hd, hc, hb]

theorem sound_accept {p : Port} {n : Nat} {m : Num} {b : Bool} {d : Num} {cls : Byte} {c : Cls} {needs : List Need}
    (hw : s.written n) (hr : s.route p m d cls = .ok (c, needs)) (h : Cfg.Sound ⟨s, D, some (p, some (n, m))⟩) :
    Cfg.Sound ⟨(routeArrival p m b n d cls s).1, D, some (p, none)⟩ := by
  have ha := h.hand p n m rfl
  have idle := h.awaited ha
  obtain ⟨k, hk, -⟩ := h.hand p n m rfl
  have ticket := accepted_ticket (b := b) hr hk
  have owed : ∀ i, Cfg.owed ⟨(routeArrival p m b n d cls s).1, D, some (p, none)⟩ i =
      Cfg.owed ⟨s, D, some (p, some (n, m))⟩ i + if i = n then needs.length else 0 := fun i => by
    simp only [Cfg.owed, accepted_named hr i]
    omega
  obtain ⟨needed, -⟩ := route_ok_needs hr
  refine h.of_store (rising_accepted h.rising hr) (fun i hi => ?_) (fun i j hj => ?_) (accepted_arriving hr)
    (routeArrival_rx _ _ _ _ _ _ _) (fun q hq => ?_) (fun q i m' hq => ?_) fun q i m' hd => by cases hd
  · rw [ticket] at hi
    split at hi
    · cases hi
    · next hin =>
      rw [owed, if_neg hin]
      exact h.free i hi
  · rw [ticket] at hj
    split at hj
    · next hin =>
      cases hj
      obtain ⟨hd, y, hc, hy⟩ := hw k hk
      refine ⟨?_, ⟨fun _ => List.length_pos_iff.mpr needed, fun _ => rfl⟩, fun _ => body_of_written rfl hd hc hy⟩
      rw [owed, if_pos hin, hin, idle, Nat.zero_add]
    · next hin =>
      rw [owed, if_neg hin]
      exact h.used i j hj
  · obtain ⟨_, hq⟩ := hq
    cases hq
    exact ⟨_, rfl⟩
  · refine awaits_others ha (fun i hi => (ticket i).trans (if_neg hi)) ?_
    rintro rfl
    exact hq ⟨_, rfl⟩

/-! ### The deeds on the ports' records -/

theorem sound_takeTrunk {t : TrunkId} {x : Txn} {n : Nat} {m : Num} (hx : (s.trunk t).txn = some x)
    (hh : x.held = some (.granted n)) (hm : ∀ m', x.kind = .poll m' → m' = m) (h : Cfg.Sound ⟨s, D, none⟩) :
    Cfg.Sound ⟨s, D, some (.trunk t, some (n, m))⟩ := by
  have none_out : ∀ q, ¬Cfg.out ⟨s, D, none⟩ q := fun _ ⟨_, hc⟩ => by cases hc
  refine h.of_ports rfl (fun _ => rfl) (fun u k i _ => h.trunks u k i (none_out _)) (fun b i _ => h.host b i (none_out _)) ?_
  intro p i m' hd
  cases hd
  obtain ⟨m', hk, ha⟩ := h.trunks t x.kind n (none_out _) (arriving_eq_some.mpr ⟨x, hx, rfl, hh⟩)
  rwa [hm m' hk] at ha

theorem sound_takeHost {b n : Nat} {m : Num} (hx : s.link.rx = .collecting b (some (.granted n))) (h : Cfg.Sound ⟨s, D, none⟩) :
    Cfg.Sound ⟨s, D, some (.host, some (n, m))⟩ := by
  have none_out : ∀ q, ¬Cfg.out ⟨s, D, none⟩ q := fun _ ⟨_, hc⟩ => by cases hc
  refine h.of_ports rfl (fun _ => rfl) (fun u k i _ => h.trunks u k i (none_out _)) (fun b i _ => h.host b i (none_out _)) ?_
  intro p i m' hd
  cases hd
  obtain ⟨_, k, hk, hs, hp, -⟩ := h.host b n (none_out _) hx
  exact ⟨k, hk, hs, hp, fun hc => absurd rfl hc⟩

theorem sound_takeNone {p : Port} (h : Cfg.Sound ⟨s, D, none⟩) : Cfg.Sound ⟨s, D, some (p, none)⟩ := by
  have none_out : ∀ q, ¬Cfg.out ⟨s, D, none⟩ q := fun _ ⟨_, hc⟩ => by cases hc
  exact h.of_ports rfl (fun _ => rfl) (fun u k i _ => h.trunks u k i (none_out _)) (fun b i _ => h.host b i (none_out _))
    fun _ _ _ hd => by cases hd

theorem sound_backTrunk {t : TrunkId} {o : Option (Nat × Num)}
    (hb : ∀ x n, (s.trunk t).txn = some x → x.held = some (.granted n) → ∃ m, x.kind = .poll m ∧ o = some (n, m))
    (h : Cfg.Sound ⟨s, D, some (.trunk t, o)⟩) : Cfg.Sound ⟨s, D, none⟩ := by
  refine h.of_ports rfl (fun _ => rfl) (fun u k n _ ha => ?_) (fun b n _ => h.host b n fun ⟨_, hc⟩ => by cases hc)
    fun _ _ _ hd => by cases hd
  by_cases hu : u = t
  · subst hu
    obtain ⟨x, hx, rfl, hh⟩ := arriving_eq_some.mp ha
    obtain ⟨m, hk, rfl⟩ := hb x n hx hh
    exact ⟨m, hk, h.hand _ _ _ rfl⟩
  · refine h.trunks u k n (fun ⟨_, hc⟩ => ?_) ha
    cases hc
    exact hu rfl

theorem sound_backHost {o : Option (Nat × Num)}
    (hb : ∀ b n, s.link.rx = .collecting b (some (.granted n)) → ∃ m, o = some (n, m)) (h : Cfg.Sound ⟨s, D, some (.host, o)⟩) :
    Cfg.Sound ⟨s, D, none⟩ := by
  refine h.of_ports rfl (fun _ => rfl) (fun u k n _ ha => h.trunks u k n (fun ⟨_, hc⟩ => by cases hc) ha) (fun b n _ hx => ?_)
    fun _ _ _ hd => by cases hd
  obtain ⟨m, rfl⟩ := hb b n hx
  exact ⟨m, h.hand _ _ _ rfl⟩

theorem sound_txn {t : TrunkId} {f : Trunk → Trunk} (hf : (f (s.trunk t)).egress.fifo = (s.trunk t).egress.fifo)
    (hh : ∀ x n, (f (s.trunk t)).txn = some x → x.held = some (.granted n) → ∃ h, o = some (.trunk t, h))
    (h : Cfg.Sound ⟨s, D, o⟩) : Cfg.Sound ⟨s.modTrunk t f, D, o⟩ := by
  refine h.of_ports rfl (fun n => congrArg (· + D.count n) (named_congr (fifo_modTrunk s hf) n)) (fun u k n ho ha => ?_)
    (fun b n ho => h.host b n ho) h.hand
  by_cases hu : u = t
  · subst hu
    obtain ⟨x, hx, -, hg⟩ := arriving_eq_some.mp ha
    rw [State.modTrunk_trunk_self] at hx
    exact absurd (hh x n hx hg) ho
  · refine h.trunks u k n ho ?_
    unfold State.arriving at ha
    rwa [State.modTrunk_trunk, if_neg hu] at ha

theorem sound_rx {f : HostLink → HostLink}
    (hh : ∀ b n, (f s.link).rx = .collecting b (some (.granted n)) → ∃ h, o = some (.host, h)) (h : Cfg.Sound ⟨s, D, o⟩) :
    Cfg.Sound ⟨s.modLink f, D, o⟩ :=
  h.of_ports rfl (fun n => congrArg (· + D.count n) (named_congr (fun e _ => by cases e <;> rfl) n)) (fun u k n ho ha => h.trunks u k n ho ha)
    (fun b n ho hx => absurd (hh b n hx) ho) h.hand

/-- The directory is not read. -/
theorem sound_setDir (l : List DirEntry) (h : Cfg.Sound ⟨s, D, o⟩) : Cfg.Sound ⟨s.setDir l, D, o⟩ :=
  h.of_calm rfl (fun n => congrArg (· + D.count n) (named_congr (fun e _ => by cases e <;> rfl) n)) (fun _ => rfl) rfl rfl

end Deeds

/-- Every deed keeps the laws of references and of arrivals. -/
theorem Deed.sound {c d : Cfg} (h : Deed c d) (hc : c.Sound) : d.Sound := by
  cases h with
  | calm D o h => exact hc.of_calm h.tickets (fun n => congrArg (· + D.count n) (h.named n)) h.arriving h.rx rfl
  | fifo s D D' o e c q h => exact sound_fifo h hc
  | drop s n D o => exact sound_drop hc
  | grant s D p m l h hm => exact sound_grant hc
  | fill s D p n m d cls data => exact sound_fill hc
  | release s D p n m => exact sound_release hc
  | accept s D p n m b d cls c needs hw hr => exact sound_accept hw hr hc
  | takeTrunk s D t x n m hx hh hm => exact sound_takeTrunk hx hh hm hc
  | takeHost s D b n m hx => exact sound_takeHost hx hc
  | takeNone s D p => exact sound_takeNone hc
  | backTrunk s D t h hb => exact sound_backTrunk hb hc
  | backHost s D h hb => exact sound_backHost hb hc
  | txn s D o t f hf hh hk => exact sound_txn hf hh hc
  | rx s D o f hh => exact sound_rx hh hc
  | station s D o n st hn hs hh => exact sound_setDir _ hc
  | group s D o n m hn => exact sound_setDir _ hc
  | remove s D o n h => exact sound_setDir _ hc
  | restart s => exact (takeRestart_cleared s).sound
  | reset s straps flt => exact (afterReset_cleared straps flt s).sound

/-! ### The laws of the model -/

theorem sound_iff {s : State} (hr : s.store.ticketLaw) : Cfg.Sound ⟨s, [], none⟩ ↔ s.refLaw ∧ s.arrivalLaw := by
  have none_out : ∀ q, ¬Cfg.out ⟨s, [], none⟩ q := fun _ ⟨_, hc⟩ => by cases hc
  obtain ⟨rising, -⟩ := hr
  constructor
  · intro h
    refine ⟨fun n => ⟨fun hn => h.free n hn, fun k hk => ?_⟩, fun t x n hx hh => ?_, fun b n hx => ?_⟩
    · obtain ⟨refs, stored, body⟩ := h.used n k hk
      exact ⟨refs, stored, body⟩
    · obtain ⟨m, hk, k, ht, hs, hp, hm⟩ := h.trunks t x.kind n (none_out _) (arriving_eq_some.mpr ⟨x, hx, rfl, hh⟩)
      exact ⟨k, ht, hs, hp, hk.trans (congrArg TxnKind.poll (hm (by simp)).symm)⟩
    · obtain ⟨_, k, ht, hs, hp, -⟩ := h.host b n (none_out _) hx
      exact ⟨k, ht, hs, hp⟩
  · rintro ⟨refs, trunks, host⟩
    refine ⟨rising, fun n hn => (refs n).1 hn, fun n k hk => ?_, fun t k n _ ha => ?_, fun b n _ hx => ?_, fun _ _ _ hd => by cases hd⟩
    · obtain ⟨count, stored, body⟩ := (refs n).2 k hk
      exact ⟨count, stored, body⟩
    · obtain ⟨x, hx, rfl, hh⟩ := arriving_eq_some.mp ha
      obtain ⟨j, ht, hs, hp, hk⟩ := trunks t x n hx hh
      exact ⟨j.source, hk, j, ht, hs, hp, fun _ => rfl⟩
    · obtain ⟨j, ht, hs, hp⟩ := host b n hx
      exact ⟨j.source, j, ht, hs, hp, fun _ => rfl⟩

end Sys2Proof.Machine
end


section
/-!
PROOFS. The law of numbers and the law of held counts (01 R1, 02 R12, R26), deed by deed.
-/

namespace Sys2Proof.Machine

/-! ### What a service does to the entries -/

section Sorts

variable {s s' : State}

/-- Every entry was there before, with its number, and was a station's or a group's as it is now. -/
def Sorts (s s' : State) : Prop := ∀ e' ∈ s'.dir, ∃ e ∈ s.dir, e'.num = e.num ∧ e'.isStation = e.isStation

theorem Sorts.of_dir (h : s'.dir = s.dir) : Sorts s s' := fun e he => ⟨e, h ▸ he, rfl, rfl⟩

theorem Sorts.trans {u : State} (h : Sorts s s') (h1 : Sorts s' u) : Sorts s u := fun e he => by
  obtain ⟨x, hx, hn, hs⟩ := h1 e he
  obtain ⟨y, hy, hn', hs'⟩ := h x hx
  exact ⟨y, hy, hn.trans hn', hs.trans hs'⟩

theorem Service.sorts (h : Service s s') : Sorts s s' := by
  cases h with
  | station n st st' h hk =>
    intro e he
    rcases mem_putInto he with rfl | he
    · obtain ⟨x, hx, hn, hs⟩ := isStation_of_station h
      exact ⟨x, hx, hn.symm, hs.symm⟩
    · exact ⟨e, he, rfl, rfl⟩
  | drop n => exact fun e he => ⟨e, (List.mem_filter.mp he).1, rfl, rfl⟩
  | fifo e c q _ => exact .of_dir (setFifo_dir _ _ _)
  | append e c q _ => exact .of_dir (setFifo_dir _ _ _)
  | _ => exact .of_dir rfl

theorem Services.sorts (h : Services s s') : Sorts s s' := by
  induction h with
  | refl => exact .of_dir rfl
  | tail _ h1 ih => exact ih.trans h1.sorts

end Sorts

/-! ### The law of numbers -/

/-- Entries and POLLs have the numbers that their sort allows. -/
structure State.Numbered (s : State) : Prop where
  stations : ∀ e ∈ s.dir, e.isStation = true → isStationNumber e.num = true
  groups : ∀ e ∈ s.dir, e.isStation = false → isGroupNumber e.num = true
  polls : ∀ t n h, s.arriving t = some (.poll n, h) → isStationNumber n = true

namespace State.Numbered

variable {s s' : State}

theorem of_sorts (h : s.Numbered) (sorts : Sorts s s') (arriving : ∀ t, s'.arriving t = s.arriving t) : s'.Numbered where
  stations e he hs := by
    obtain ⟨x, hx, hn, hsort⟩ := sorts e he
    rw [hn]
    exact h.stations x hx (hsort ▸ hs)
  groups e he hs := by
    obtain ⟨x, hx, hn, hsort⟩ := sorts e he
    rw [hn]
    exact h.groups x hx (hsort ▸ hs)
  polls t n o ha := h.polls t n o (arriving t ▸ ha)

theorem put (h : s.Numbered) {e : DirEntry} (hs : e.isStation = true → isStationNumber e.num = true)
    (hg : e.isStation = false → isGroupNumber e.num = true) : (s.setDir (putInto e s.dir)).Numbered where
  stations x hx hx' := by
    rcases mem_putInto hx with rfl | hx
    · exact hs hx'
    · exact h.stations x hx hx'
  groups x hx hx' := by
    rcases mem_putInto hx with rfl | hx
    · exact hg hx'
    · exact h.groups x hx hx'
  polls := h.polls

theorem txn (h : s.Numbered) {t : TrunkId} {f : Trunk → Trunk}
    (hk : ∀ x m, (f (s.trunk t)).txn = some x → x.kind = .poll m →
      (∃ y, (s.trunk t).txn = some y ∧ y.kind = .poll m) ∨ ∃ e ∈ s.dir, e.num = m ∧ e.isStation = true) :
    (s.modTrunk t f).Numbered where
  stations := h.stations
  groups := h.groups
  polls u n o ha := by
    by_cases hu : u = t
    · subst hu
      obtain ⟨x, hx, hn, -⟩ := arriving_eq_some.mp ha
      rw [State.modTrunk_trunk_self] at hx
      rcases hk x n hx hn with ⟨y, hy, hm⟩ | ⟨e, he, rfl, hs⟩
      · exact h.polls u n y.held (arriving_eq_some.mpr ⟨y, hy, hm, rfl⟩)
      · exact h.stations e he hs
    · unfold State.arriving at ha
      rw [State.modTrunk_trunk, if_neg hu] at ha
      exact h.polls u n o ha

theorem of_cleared (hc : s'.Cleared) (h : s.Numbered) (sorts : Sorts s s') : s'.Numbered where
  stations e he hs := by
    obtain ⟨x, hx, hn, hsort⟩ := sorts e he
    rw [hn]
    exact h.stations x hx (hsort ▸ hs)
  groups e he hs := by
    obtain ⟨x, hx, hn, hsort⟩ := sorts e he
    rw [hn]
    exact h.groups x hx (hsort ▸ hs)
  polls t n o ha := by
    simp only [State.arriving, hc.txn] at ha
    cases ha

end State.Numbered

theorem restartEntry_eq_some {e e' : DirEntry} (h : restartEntry e = some e') :
    e'.num = e.num ∧ e'.isStation = e.isStation ∧ ∀ st, e'.body = .station st → st.held = 0 := by
  unfold restartEntry at h
  split at h
  · next hb =>
    cases h
    exact ⟨rfl, rfl, fun st h => by rw [hb] at h; cases h⟩
  · next st hb =>
    split at h
    · cases h
    · cases h
      refine ⟨rfl, by simp [DirEntry.isStation, hb], fun st h => ?_⟩
      cases h
      rfl

theorem takeRestart_sorts (s : State) : Sorts s (takeRestart false s) := by
  intro e he
  rw [takeRestart_dir] at he
  obtain ⟨x, hx, hr⟩ := List.mem_filterMap.mp he
  obtain ⟨hn, hs, -⟩ := restartEntry_eq_some hr
  exact ⟨x, hx, hn, hs⟩

theorem dropRef_arriving (s : State) (n : Nat) (t : TrunkId) : (dropRef n s).arriving t = s.arriving t := by
  unfold State.arriving
  rw [trunk_of_trunks (dropRef_trunks s n)]

/-- Every deed keeps the law of numbers. -/
theorem Deed.numbered {c d : Cfg} (h : Deed c d) (hc : c.s.Numbered) : d.s.Numbered := by
  cases h with
  | calm D o h => exact hc.of_sorts h.sorts h.arriving
  | fifo s D D' o e c q h => exact hc.of_sorts (.of_dir (setFifo_dir _ _ _)) fun t => by rw [State.arriving, setFifo_txn]; rfl
  | drop s n D o => exact hc.of_sorts (dropRef_services s n).sorts (dropRef_arriving s n)
  | fill s D p n m d cls data =>
    exact hc.of_sorts (.of_dir (fillTicket_dir _ _ _ _ _)) fun t => by
      unfold State.arriving
      rw [trunk_of_trunks (fillTicket_trunks _ _ _ _ _)]
  | release s D p n m =>
    exact hc.of_sorts (releaseFilling_services s n).sorts fun t => by
      unfold State.arriving
      rw [trunk_of_trunks (releaseFilling_trunks s n)]
  | accept s D p n m b d cls c needs hw hr => exact hc.of_sorts (routeArrival_services s p m b n d cls).sorts (accepted_arriving hr)
  | txn s D o t f hf hh hk => exact hc.txn hk
  | station s D o n st hn hs hh => exact hc.put (fun _ => hn) fun h => by cases h
  | group s D o n m hn => exact hc.put (fun h => by cases h) fun _ => hn
  | remove s D o n h => exact hc.of_sorts (fun e he => ⟨e, (List.mem_filter.mp he).1, rfl, rfl⟩) fun _ => rfl
  | restart s => exact .of_cleared (takeRestart_cleared s) hc (takeRestart_sorts s)
  | reset s straps flt => exact .of_cleared (afterReset_cleared straps flt s) hc fun e he => by cases he
  | _ => exact hc.of_sorts (.of_dir rfl) fun _ => rfl

theorem numbered_iff {s : State} : s.Numbered ↔ s.numberLaw := by
  constructor
  · intro h
    refine ⟨fun e he => ?_, fun t x n hx hk => h.polls t n x.held (arriving_eq_some.mpr ⟨x, hx, hk, rfl⟩)⟩
    have station := h.stations e he
    have group := h.groups e he
    unfold DirEntry.isStation at station group
    split
    · next hb => exact station (by rw [hb])
    · next hb => exact group (by rw [hb])
  · rintro ⟨entries, polls⟩
    refine ⟨fun e he hs => ?_, fun e he hs => ?_, fun t n o ha => ?_⟩
    · have entry := entries e he
      unfold DirEntry.isStation at hs
      split at hs
      · next hb => simpa [hb] using entry
      · cases hs
    · have entry := entries e he
      unfold DirEntry.isStation at hs
      split at hs
      · cases hs
      · next hb => simpa [hb] using entry
    · obtain ⟨x, hx, hk, -⟩ := arriving_eq_some.mp ha
      exact polls t x n hx hk

/-! ### Held blocks -/

section Held

variable (s : State)

/-- The held blocks of number `n`; 0 without a station. -/
def State.heldBlocks (s : State) (n : Num) : Nat := ((s.station n).map Station.held).getD 0

variable {s} in
theorem heldBlocks_congr {s' : State} (h : s'.dir = s.dir) (i : Num) : s'.heldBlocks i = s.heldBlocks i := by
  unfold State.heldBlocks
  rw [station_congr h]

variable {s} in
theorem heldBlocks_of_station {n : Num} {st : Station} (h : s.station n = some st) : s.heldBlocks n = st.held := by
  simp [State.heldBlocks, h]

theorem heldBlocks_putStation (n : Num) (st : Station) (i : Num) :
    (putStation n st s).heldBlocks i = if i = n then st.held else s.heldBlocks i := by
  unfold State.heldBlocks
  rw [station_putStation]
  split <;> rfl

theorem heldBlocks_dropEntry (n i : Num) : (dropEntry n s).heldBlocks i = if i = n then 0 else s.heldBlocks i := by
  unfold State.heldBlocks State.station
  rw [entry_dropEntry]
  split <;> rfl

theorem heldBlocks_removeStation (n : Num) (st : Station) (c : Cause) (i : Num) :
    (removeStation n st c s).heldBlocks i = if i = n then 0 else s.heldBlocks i := by
  rw [← heldBlocks_dropEntry]
  refine heldBlocks_congr ?_ i
  unfold removeStation
  simp only [wakeHome_dir]
  split <;> simp [countDir]

/-- A station charged for an acceptance. -/
theorem heldBlocks_chargeSource {n : Num} {st : Station} (h : s.station n = some st) (t : TrunkId) (b : Bool) (k : Nat) (i : Num) :
    (chargeSource t n b k s).heldBlocks i = s.heldBlocks i + if i = n then k else 0 := by
  unfold chargeSource
  rw [h]
  simp only [heldBlocks_putStation]
  split
  · next hi => rw [hi, heldBlocks_of_station h]
  · rfl

/-- A release reported to the directory. -/
theorem heldBlocks_releaseSource (n : Num) (k : Nat) (i : Num) :
    (releaseSource n k s).heldBlocks i = s.heldBlocks i - if i = n then k else 0 := by
  unfold releaseSource
  split
  · next h =>
    split
    · next hi =>
      have : s.heldBlocks i = 0 := by simp [State.heldBlocks, hi, h]
      omega
    · rfl
  · next st h =>
    have written : (putStation n { st with held := st.held - k } s).heldBlocks i = s.heldBlocks i - if i = n then k else 0 := by
      rw [heldBlocks_putStation]
      split
      · next hi => rw [hi, heldBlocks_of_station h]
      · rfl
    have told : (if s.capOf st ≤ st.held ∧ st.held - k < s.capOf st then
        wakeHome st.home (putStation n { st with held := st.held - k } s) else putStation n { st with held := st.held - k } s).heldBlocks i
          = s.heldBlocks i - if i = n then k else 0 := by
      split
      · rw [heldBlocks_congr (wakeHome_dir _ _), written]
      · exact written
    simp only
    split
    · split
      · next h0 =>
        rw [heldBlocks_removeStation, written]
        split
        · next hi =>
          rw [hi, heldBlocks_of_station h]
          exact h0.symm
        · rfl
      · exact told
    · exact told

theorem testRecovered_dir : (testRecovered s).dir = s.dir := by
  unfold testRecovered
  split <;> simp

theorem releaseFilling_dir (n : Nat) : (releaseFilling n s).dir = s.dir := by
  unfold releaseFilling
  split
  · rfl
  · rw [testRecovered_dir]
    rfl

/-! ### Blocks charged to a station -/

/-- The blocks that a ticket charges to station `n`. -/
def Ticket.charges (n : Num) (k : Ticket) : Nat := if k.storedAt.isSome && k.port ≠ .host && k.source = n then k.blocks else 0

theorem sourceBlocks_eq (n : Num) (l : List Ticket) : sourceBlocks n l = (l.map (Ticket.charges n)).sum := by
  unfold sourceBlocks blocksOf
  induction l with
  | nil => rfl
  | cons y ys ih =>
    rw [List.filter_cons, List.map_cons, List.sum_cons, ← ih]
    unfold Ticket.charges
    split
    · rw [List.map_cons, List.sum_cons]
    · rw [Nat.zero_add]

theorem charges_of_filling {k : Ticket} (h : k.storedAt = none) (n : Num) : k.charges n = 0 := by simp [Ticket.charges, h]

/-- A weight summed over the list with a ticket put in place of another. -/
theorem sum_putTicketInto_replace (w : Ticket → Nat) {k o : Ticket} {l : List Ticket} (h : l.Pairwise fun a b => a.num < b.num)
    (hf : l.find? (fun x => x.num = k.num) = some o) : ((putTicketInto k l).map w).sum + w o = (l.map w).sum + w k := by
  have ho : o.num = k.num := by simpa using List.find?_some hf
  have before := sum_release w h (k := o) (ho ▸ hf)
  have after := sum_release w (putTicketInto_rising (k := k) h) (k := k) (by rw [find_putTicketInto, if_pos rfl])
  rw [filter_putTicketInto] at after
  rw [ho] at before
  omega

variable {s} in
theorem sourceBlocks_replace {k k' : Ticket} {n : Nat} (hs : s.store.tickets.Pairwise fun a b => a.num < b.num)
    (hk : s.ticket n = some k) (hn : k'.num = k.num) (m : Num) :
    sourceBlocks m (putTicketInto k' s.store.tickets) + k.charges m = sourceBlocks m s.store.tickets + k'.charges m := by
  simp only [sourceBlocks_eq]
  refine sum_putTicketInto_replace _ hs ?_
  rw [hn, ticket_num hk]
  exact hk

variable {s} in
theorem sourceBlocks_release {k : Ticket} {n : Nat} (hs : s.store.tickets.Pairwise fun a b => a.num < b.num)
    (hk : s.ticket n = some k) (m : Num) :
    sourceBlocks m s.store.tickets = sourceBlocks m (s.store.release k).tickets + k.charges m := by
  simp only [sourceBlocks_eq]
  refine sum_release _ hs ?_
  rw [ticket_num hk]
  exact hk

end Held

/-! ### The law of held counts -/

/-- Held blocks are the charges of the tickets, every ticket has a block, and a ticket in a trunk's hands is a station's. -/
structure Cfg.Charged (c : Cfg) : Prop where
  counts : ∀ n, c.s.heldBlocks n = sourceBlocks n c.s.store.tickets
  blocks : ∀ k ∈ c.s.store.tickets, 1 ≤ k.blocks
  hand : ∀ t n m, c.hand = some (.trunk t, some (n, m)) → isStationNumber m = true

namespace Cfg.Charged

variable {c d : Cfg}

/-- Deeds that leave the tickets and the held blocks alone. -/
theorem of_same (h : c.Charged) (tickets : d.s.store.tickets = c.s.store.tickets) (held : ∀ n, d.s.heldBlocks n = c.s.heldBlocks n)
    (hand : ∀ t n m, d.hand = some (.trunk t, some (n, m)) → isStationNumber m = true) : d.Charged where
  counts n := by rw [held, tickets, h.counts]
  blocks k hk := h.blocks k (tickets ▸ hk)
  hand := hand

end Cfg.Charged

section Deeds

variable {s : State} {D : List Nat} {o : Option (Port × Option (Nat × Num))}

theorem charged_drop {n : Nat} (hs : Cfg.Sound ⟨s, n :: D, o⟩) (h : Cfg.Charged ⟨s, n :: D, o⟩) : Cfg.Charged ⟨dropRef n s, D, o⟩ := by
  unfold dropRef
  split
  · exact h.of_same rfl (fun _ => rfl) h.hand
  · next k hk =>
    split
    · next hr =>
      have released := sourceBlocks_release hs.rising hk
      have stored : k.storedAt.isSome = true := by
        have agrees := hs.used n k hk
        have refs := agrees.refs
        simp only [Cfg.owed, List.count_cons_self] at refs
        exact agrees.stored.mpr (by omega)
      refine ⟨fun m => ?_, fun j hj => ?_, h.hand⟩
      · have reported : (reportRelease k (s.setStore (s.store.release k))).heldBlocks m = s.heldBlocks m - k.charges m := by
          unfold reportRelease
          split
          · next t hp =>
            rw [heldBlocks_releaseSource]
            simp only [Ticket.charges, stored, hp, ne_eq, reduceCtorEq, not_false_eq_true, decide_true, Bool.true_and, decide_eq_true_eq,
              eq_comm (a := m)]
            rfl
          · next hp => simp [Ticket.charges, hp, State.heldBlocks]; rfl
        rw [heldBlocks_congr (testRecovered_dir _), testRecovered_tickets, reportRelease_store, reported]
        have := released m
        have := h.counts m
        simp only [State.setStore_store] at *
        omega
      · rw [testRecovered_tickets, reportRelease_store] at hj
        exact h.blocks j (List.mem_filter.mp hj).1
    · refine ⟨fun m => ?_, fun j hj => ?_, h.hand⟩
      · have kept := sourceBlocks_replace hs.rising hk (k' := { k with refs := k.refs - 1 }) rfl m
        have := h.counts m
        have same : Ticket.charges m { k with refs := k.refs - 1 } = k.charges m := rfl
        have held : (putTicket { k with refs := k.refs - 1 } s).heldBlocks m = s.heldBlocks m := heldBlocks_congr rfl m
        simp only [putTicket, State.setStore_store] at *
        omega
      · rcases mem_putTicketInto hj with rfl | hj
        · exact h.blocks k (mem_of_ticket hk)
        · exact h.blocks j hj

theorem charged_grant {p : Port} {m : Num} {l : Nat} (hs : Cfg.Sound ⟨s, D, some (p, none)⟩)
    (hm : ∀ t, p = .trunk t → isStationNumber m = true) (h : Cfg.Charged ⟨s, D, some (p, none)⟩) :
    Cfg.Charged ⟨s.setStore (s.store.grant s.lowestFree p m l), D, some (p, some (s.lowestFree, m))⟩ := by
  have tickets : (s.store.grant s.lowestFree p m l).tickets = putTicketInto (grantedTicket s p m l) s.store.tickets := rfl
  refine ⟨fun i => ?_, fun k hk => ?_, fun t n i hd => ?_⟩
  · have new : ∀ x ∈ s.store.tickets, x.num ≠ (grantedTicket s p m l).num := ne_lowestFrom hs.rising fun _ _ => Nat.zero_le _
    have held : (s.setStore (s.store.grant s.lowestFree p m l)).heldBlocks i = s.heldBlocks i := heldBlocks_congr rfl i
    simp only [State.setStore_store, tickets, held]
    rw [sourceBlocks_eq, sum_putTicketInto_new _ _ new, charges_of_filling rfl, ← sourceBlocks_eq]
    exact h.counts i
  · rcases mem_putTicketInto hk with rfl | hk
    · exact Nat.le_max_left _ _
    · exact h.blocks k hk
  · cases hd
    exact hm t rfl

theorem charged_fill {p : Port} {n : Nat} {m : Num} {d : Num} {cls : Byte} {data : List Byte}
    (hs : Cfg.Sound ⟨s, D, some (p, some (n, m))⟩) (h : Cfg.Charged ⟨s, D, some (p, some (n, m))⟩) :
    Cfg.Charged ⟨fillTicket n d cls data s, D, some (p, some (n, m))⟩ := by
  obtain ⟨k, hk, hf, -⟩ := hs.hand p n m rfl
  rw [fillTicket_eq hk]
  refine ⟨fun i => ?_, fun j hj => ?_, h.hand⟩
  · have kept := sourceBlocks_replace hs.rising hk (k' := { k with dest := some d, cls := some cls, data := data }) rfl i
    rw [charges_of_filling hf, charges_of_filling (by exact hf)] at kept
    exact (h.counts i).trans kept.symm
  · rcases mem_putTicketInto hj with rfl | hj
    · exact h.blocks k (mem_of_ticket hk)
    · exact h.blocks j hj

theorem charged_release {p : Port} {n : Nat} {m : Num} (hs : Cfg.Sound ⟨s, D, some (p, some (n, m))⟩)
    (h : Cfg.Charged ⟨s, D, some (p, some (n, m))⟩) : Cfg.Charged ⟨releaseFilling n s, D, some (p, none)⟩ := by
  obtain ⟨k, hk, hf, -⟩ := hs.hand p n m rfl
  have tickets : (releaseFilling n s).store.tickets = (s.store.release k).tickets := by
    simp only [releaseFilling, hk, testRecovered_tickets, State.setStore_store]
  refine ⟨fun i => ?_, fun j hj => ?_, fun _ _ _ hd => by cases hd⟩
  · have released := sourceBlocks_release hs.rising hk i
    rw [charges_of_filling hf] at released
    rw [heldBlocks_congr (releaseFilling_dir s n), tickets]
    exact (h.counts i).trans released
  · rw [tickets] at hj
    exact h.blocks j (List.mem_filter.mp hj).1

theorem not_group_of_station {n : Num} (h : isStationNumber n = true) : isGroupNumber n = false := by
  unfold isStationNumber at h
  unfold isGroupNumber
  simp only [Bool.and_eq_true, decide_eq_true_eq, Bool.and_eq_false_iff, decide_eq_false_iff_not, BitVec.le_def] at *
  simp only [BitVec.toNat_ofNat] at *
  omega

theorem isStation_of_group_eq_false {s : State} (hn : s.Numbered) {e : DirEntry} (he : e ∈ s.dir) (hs : isStationNumber e.num = true) :
    e.isStation = true := by
  by_contra hc
  have group := hn.groups e he (Bool.not_eq_true _ ▸ hc)
  rw [not_group_of_station hs] at group
  cases group

/-- The entry of a station number is a station's. -/
theorem station_of_known {s : State} (hn : s.Numbered) {m : Num} (hm : isStationNumber m = true) (h : (s.entry m).isSome = true) :
    ∃ st, s.station m = some st := by
  obtain ⟨e, he⟩ := Option.isSome_iff_exists.mp h
  have num : e.num = m := by simpa using List.find?_some he
  have sort := isStation_of_group_eq_false hn (List.mem_of_find?_eq_some he) (num.symm ▸ hm)
  unfold DirEntry.isStation at sort
  split at sort
  · next st hb => exact ⟨st, station_of_entry s he hb⟩
  · cases sort

theorem charged_accept {p : Port} {n : Nat} {m : Num} {b : Bool} {d : Num} {cls : Byte} {c : Cls} {needs : List Need}
    (hr : s.route p m d cls = .ok (c, needs)) (hs : Cfg.Sound ⟨s, D, some (p, some (n, m))⟩) (hn : s.Numbered)
    (h : Cfg.Charged ⟨s, D, some (p, some (n, m))⟩) : Cfg.Charged ⟨(routeArrival p m b n d cls s).1, D, some (p, none)⟩ := by
  obtain ⟨k, hk, hf, hp, hm⟩ := hs.hand p n m rfl
  obtain ⟨-, known⟩ := route_ok_needs hr
  have appended := appendAll_appended (s := s) n c needs
  have hk' := (ticket_congr appended.store n).trans hk
  have stored : storeTicket n needs.length (appendAll n c needs s) =
      putTicket { k with refs := needs.length, storedAt := some (appendAll n c needs s).timebase } (appendAll n c needs s) := by
    simp only [storeTicket, hk']
  have tickets : (routeArrival p m b n d cls s).1.store.tickets =
      putTicketInto { k with refs := needs.length, storedAt := some (appendAll n c needs s).timebase } s.store.tickets := by
    rw [accepted_eq hr, chargeArrival_store, stored]
    simp only [putTicket, State.setStore_store, appended.store]
  have dir : (storeTicket n needs.length (appendAll n c needs s)).dir = s.dir := by rw [storeTicket_dir, appended.dir]
  refine ⟨fun i => ?_, fun j hj => ?_, fun _ _ _ hd => by cases hd⟩
  · have charged : (routeArrival p m b n d cls s).1.heldBlocks i = s.heldBlocks i +
        Ticket.charges i { k with refs := needs.length, storedAt := some (appendAll n c needs s).timebase } := by
      rw [accepted_eq hr]
      cases p with
      | host =>
        rw [show (chargeArrival .host m b (s.ticketBlocks n) (storeTicket n needs.length (appendAll n c needs s))) =
          storeTicket n needs.length (appendAll n c needs s) from rfl, heldBlocks_congr dir]
        simp [Ticket.charges, hp]
      | trunk t =>
        obtain ⟨st, hst⟩ := station_of_known hn (h.hand t n m rfl) known
        rw [show (chargeArrival (.trunk t) m b (s.ticketBlocks n) (storeTicket n needs.length (appendAll n c needs s))) =
          chargeSource t m b (s.ticketBlocks n) (storeTicket n needs.length (appendAll n c needs s)) from rfl,
          heldBlocks_chargeSource _ ((station_congr dir m).trans hst), heldBlocks_congr dir]
        have source := hm (by simp)
        simp only [Ticket.charges, hp, source, State.ticketBlocks, hk, Option.isSome_some, ne_eq, reduceCtorEq, not_false_eq_true,
          decide_true, Bool.and_self, Bool.true_and, decide_eq_true_eq, eq_comm (a := i), Option.map_some, Option.getD_some]
    have replaced := sourceBlocks_replace (s := s) hs.rising hk
      (k' := { k with refs := needs.length, storedAt := some (appendAll n c needs s).timebase }) rfl i
    rw [charges_of_filling hf] at replaced
    have before : s.heldBlocks i = sourceBlocks i s.store.tickets := h.counts i
    change (routeArrival p m b n d cls s).1.heldBlocks i = sourceBlocks i (routeArrival p m b n d cls s).1.store.tickets
    rw [charged, tickets]
    omega
  · rw [tickets] at hj
    rcases mem_putTicketInto hj with rfl | hj
    · exact h.blocks k (mem_of_ticket hk)
    · exact h.blocks j hj

theorem heldBlocks_group (hn : s.Numbered) {n : Num} (m : Members) (hg : isGroupNumber n = true) (i : Num) :
    (s.setDir (putInto ⟨n, .group m⟩ s.dir)).heldBlocks i = s.heldBlocks i := by
  have read : (s.setDir (putInto ⟨n, .group m⟩ s.dir)).station i = if i = n then none else s.station i := by
    unfold State.station
    rw [entry_setDir_putInto]
    split <;> rfl
  have absent : s.station n = none := by
    by_contra hc
    obtain ⟨st, hst⟩ := Option.ne_none_iff_exists'.mp hc
    obtain ⟨e, he, rfl, hs⟩ := isStation_of_station hst
    have := not_group_of_station (hn.stations e he hs)
    rw [hg] at this
    cases this
  unfold State.heldBlocks
  rw [read]
  split
  · next hi => rw [hi, absent]
  · rfl

/-- With no ticket and no station that holds anything the law holds. -/
theorem charged_of_cleared (hc : s.Cleared) (h : ∀ e ∈ s.dir, ∀ st, e.body = .station st → st.held = 0) : Cfg.Charged ⟨s, [], none⟩ where
  counts n := by
    simp only [hc.tickets]
    cases hst : s.station n with
    | none => simp [State.heldBlocks, hst]; rfl
    | some st =>
      rw [heldBlocks_of_station hst, h _ (List.mem_of_find?_eq_some (entry_of_station s hst)) st rfl]
      rfl
  blocks k hk := by
    simp only [hc.tickets] at hk
    cases hk
  hand _ _ _ hd := by cases hd

end Deeds

/-- Every deed keeps the law of held counts, given the others. -/
theorem Deed.charged {c d : Cfg} (h : Deed c d) (hs : c.Sound) (hn : c.s.Numbered) (hc : c.Charged) : d.Charged := by
  cases h with
  | calm D o h =>
    exact hc.of_same h.tickets (fun n => by unfold State.heldBlocks; rw [h.held]) hc.hand
  | fifo s D D' o e c q h =>
    exact hc.of_same (congrArg Store.tickets (setFifo_store _ _ _)) (heldBlocks_congr (setFifo_dir _ _ _)) hc.hand
  | drop s n D o => exact charged_drop hs hc
  | grant s D p m l h hm =>
    refine charged_grant hs (fun t ht => ?_) hc
    obtain ⟨x, hx, hk⟩ := hm t ht
    exact hn.polls t m x.held (arriving_eq_some.mpr ⟨x, hx, hk, rfl⟩)
  | fill s D p n m d cls data => exact charged_fill hs hc
  | release s D p n m => exact charged_release hs hc
  | accept s D p n m b d cls c needs hw hr => exact charged_accept hr hs hn hc
  | takeTrunk s D t x n m hx hh hm =>
    refine hc.of_same rfl (fun _ => rfl) fun u i j hd => ?_
    cases hd
    obtain ⟨j, hk, -⟩ := hs.trunks t x.kind n (fun ⟨_, h⟩ => by cases h) (arriving_eq_some.mpr ⟨x, hx, rfl, hh⟩)
    rw [← hm j hk]
    exact hn.polls t j x.held (arriving_eq_some.mpr ⟨x, hx, hk, rfl⟩)
  | takeHost s D b n m hx => exact hc.of_same rfl (fun _ => rfl) fun _ _ _ hd => by cases hd
  | takeNone s D p => exact hc.of_same rfl (fun _ => rfl) fun _ _ _ hd => by cases hd
  | backTrunk s D t h hb => exact hc.of_same rfl (fun _ => rfl) fun _ _ _ hd => by cases hd
  | backHost s D h hb => exact hc.of_same rfl (fun _ => rfl) fun _ _ _ hd => by cases hd
  | txn s D o t f hf hh hk => exact hc.of_same rfl (heldBlocks_congr rfl) hc.hand
  | rx s D o f hh => exact hc.of_same rfl (heldBlocks_congr rfl) hc.hand
  | station s D o n st hn hst hh =>
    refine hc.of_same rfl (fun i => ?_) hc.hand
    rw [heldBlocks_putStation]
    split
    · next hi => simp [State.heldBlocks, hi, hst, hh]
    · rfl
  | group s D o n m hg => exact hc.of_same rfl (heldBlocks_group hn m hg) hc.hand
  | remove s D o n h =>
    refine hc.of_same rfl (fun i => ?_) hc.hand
    rw [heldBlocks_dropEntry]
    split
    · next hi =>
      subst hi
      cases hst : s.station i with
      | none => simp [State.heldBlocks, hst]
      | some st => rw [heldBlocks_of_station hst, h st hst]
    · rfl
  | restart s =>
    refine charged_of_cleared (takeRestart_cleared s) fun e he => ?_
    rw [takeRestart_dir] at he
    obtain ⟨x, -, hr⟩ := List.mem_filterMap.mp he
    obtain ⟨-, -, held⟩ := restartEntry_eq_some hr
    exact held
  | reset s straps flt => exact charged_of_cleared (afterReset_cleared straps flt s) fun e he => by cases he

/-- A station that holds blocks has an entry, so that the law of held counts is that of the charges. -/
theorem charged_iff {s : State} : Cfg.Charged ⟨s, [], none⟩ ↔ s.heldLaw := by
  constructor
  · intro h
    refine ⟨h.counts, fun k hk => ⟨h.blocks k hk, fun hs hp => ?_⟩⟩
    have charged : k.charges k.source ∈ s.store.tickets.map (Ticket.charges k.source) := List.mem_map_of_mem hk
    have own : k.charges k.source = k.blocks := by simp [Ticket.charges, hs, hp]
    have total := List.le_sum_of_mem charged
    rw [← sourceBlocks_eq, ← h.counts, own] at total
    have := h.blocks k hk
    by_contra hc
    have : s.heldBlocks k.source = 0 := by simp [State.heldBlocks, Option.not_isSome_iff_eq_none.mp hc]
    simp only at total
    omega
  · rintro ⟨counts, tickets⟩
    exact ⟨counts, fun k hk => (tickets k hk).1, fun _ _ _ hd => by cases hd⟩

end Sys2Proof.Machine
end


section
/-!
PROOFS. The laws of blocks and of the directory's capacities, by the acts of `Move`; the laws of the store and of the directory.
-/

namespace Sys2Proof.Machine

/-! ### The laws of the store (03 R41 to R43) -/

section Store

variable {s s' : State}

theorem storeLaw_congr (tickets : s'.store.tickets = s.store.tickets) (free : s'.store.freeBlocks = s.store.freeBlocks)
    (occ : s'.store.occ = s.store.occ) (h : s.storeLaw) : s'.storeLaw := by
  unfold State.storeLaw Store.ticketLaw Store.blockLaw at *
  rwa [tickets, free, occ]

theorem storeLaw_release {n : Nat} {k : Ticket} (hk : s.ticket n = some k) (h : s.storeLaw) :
    (s.setStore (s.store.release k)).storeLaw := by
  obtain ⟨⟨rising, nums⟩, free, occ⟩ := h
  have find : s.store.tickets.find? (fun x => x.num = k.num) = some k := by
    rw [ticket_num hk]
    exact hk
  refine ⟨⟨rising_filter rising _, fun x hx => nums x (List.mem_filter.mp hx).1⟩, ?_, fun p => ?_⟩
  · have total := sum_release Ticket.blocks rising find
    simp only [State.setStore_store, Store.release, blocksOf] at *
    omega
  · have total := sum_release (fun x => if x.port = p then x.blocks else 0) rising find
    rw [← portBlocks_eq, ← portBlocks_eq] at total
    have here := occ p
    have there := occ k.port
    simp only [State.setStore_store, Store.release, occupancy_get_put]
    split
    · next hp =>
      subst hp
      simp only [if_true] at total
      omega
    · next hp =>
      rw [if_neg (Ne.symm hp)] at total
      omega

theorem storeLaw_putTicket {n : Nat} {k k' : Ticket} (hk : s.ticket n = some k) (hn : k'.num = k.num) (hp : k'.port = k.port)
    (hb : k'.blocks = k.blocks) (h : s.storeLaw) : (putTicket k' s).storeLaw := by
  obtain ⟨⟨rising, nums⟩, free, occ⟩ := h
  have find : s.store.tickets.find? (fun x => x.num = k'.num) = some k := by
    rw [hn, ticket_num hk]
    exact hk
  refine ⟨⟨putTicketInto_rising rising, fun x hx => ?_⟩, ?_, fun p => ?_⟩
  · rcases mem_putTicketInto hx with rfl | hx
    · exact hn ▸ nums k (mem_of_ticket hk)
    · exact nums x hx
  · simp only [putTicket, State.setStore_store, blocksOf]
    rw [sum_putTicketInto_old Ticket.blocks rising find hb]
    exact free
  · simp only [putTicket, State.setStore_store, portBlocks_eq]
    rw [sum_putTicketInto_old _ rising find (by rw [hp, hb]), ← portBlocks_eq]
    exact occ p

theorem reserveFailure_none {p : Port} {l : Nat} (h : s.reserveFailure p l = none) :
    blockCount l ≤ s.store.freeBlocks ∧ s.lowestFree < Config.ticketCount := by
  unfold State.reserveFailure at h
  split at h
  · cases h
  · split at h
    · cases h
    · omega

theorem storeLaw_grant {p : Port} {m : Num} {l : Nat} (hr : s.reserveFailure p l = none) (h : s.storeLaw) :
    (s.setStore (s.store.grant s.lowestFree p m l)).storeLaw := by
  obtain ⟨⟨rising, nums⟩, free, occ⟩ := h
  obtain ⟨room, low⟩ := reserveFailure_none hr
  have tickets : (s.store.grant s.lowestFree p m l).tickets = putTicketInto (grantedTicket s p m l) s.store.tickets := rfl
  have new : ∀ x ∈ s.store.tickets, x.num ≠ (grantedTicket s p m l).num := ne_lowestFrom rising fun _ _ => Nat.zero_le _
  refine ⟨⟨putTicketInto_rising rising, fun x hx => ?_⟩, ?_, fun q => ?_⟩
  · rcases mem_putTicketInto hx with rfl | hx
    · exact low
    · exact nums x hx
  · have total := sum_putTicketInto_new Ticket.blocks _ new
    simp only [State.setStore_store, tickets, blocksOf, total]
    simp only [Store.grant, grantedTicket]
    unfold blocksOf at free
    omega
  · have total := sum_putTicketInto_new (fun x => if x.port = q then x.blocks else 0) _ new
    simp only [State.setStore_store, tickets, portBlocks_eq, total]
    simp only [← portBlocks_eq, ← occ, Store.grant, grantedTicket, occupancy_get_put]
    split
    · next hq => simp [hq]
    · next hq => simp [Ne.symm hq]

/-- A store without tickets, every block free. -/
theorem storeLaw_of_empty (tickets : s.store.tickets = []) (free : s.store.freeBlocks = Config.storeBlocks)
    (occ : s.store.occ = ⟨Quad.all 0, 0⟩) : s.storeLaw := by
  unfold State.storeLaw Store.ticketLaw Store.blockLaw
  rw [tickets, free, occ]
  refine ⟨⟨.nil, fun _ h => by cases h⟩, rfl, fun p => ?_⟩
  cases p with
  | trunk t => exact Quad.get_all _ _
  | host => rfl

theorem Move.storeLaw (h : Move s s') (hs : s.storeLaw) : s'.storeLaw := by
  cases h with
  | service h =>
    cases h with
    | release n k hk => exact storeLaw_release hk hs
    | ticket n k k' hk hn hp hb => exact storeLaw_putTicket hk hn hp hb hs
    | mark st ht hf ho => exact storeLaw_congr ht hf ho hs
    | fifo e c q _ => exact storeLaw_congr (by rw [setFifo_store]) (by rw [setFifo_store]) (by rw [setFifo_store]) hs
    | append e c q _ => exact storeLaw_congr (by rw [setFifo_store]) (by rw [setFifo_store]) (by rw [setFifo_store]) hs
    | _ => exact hs
  | grant p m l hr => exact storeLaw_grant hr hs
  | clearStore => exact storeLaw_of_empty rfl rfl rfl
  | reset straps flt => exact storeLaw_of_empty rfl rfl rfl
  | _ => exact hs

end Store

/-- Settles O58: the blocks and occupancies by the acts of `Move`, the references and the arrivals by the deeds of a step. -/
theorem storeLaws : Obligations.StoreLaws := by
  have blocks : ∀ s s' : State, s.storeLaw → step s = .next s' → s'.storeLaw := fun _ _ hs h =>
    step_preserve (fun _ _ h => h) (fun _ _ h => h.storeLaw) hs h
  refine ⟨blocks, fun s s' hs hr ha h => ?_⟩
  have sound : Cfg.Sound ⟨s', [], none⟩ := (step_runs h).preserve (fun _ _ h => h.sound) ((sound_iff hs.1).mpr ⟨hr, ha⟩)
  exact (sound_iff (blocks s s' hs h).1).mp sound

/-! ### The capacities of the directory (02 R13) -/

section Directory

variable {s s' : State}

/-- A weight summed over a rising list with an entry put in, in place of the one with its number if there is one. -/
theorem sum_putInto (w : DirEntry → Nat) (e : DirEntry) {l : List DirEntry} (h : l.Pairwise fun a b => a.num < b.num) :
    ((putInto e l).map w).sum + ((l.find? fun x => x.num = e.num).map w).getD 0 = (l.map w).sum + w e := by
  induction l with
  | nil => simp [putInto]
  | cons y ys ih =>
    obtain ⟨lower, rest⟩ := List.pairwise_cons.mp h
    have := ih rest
    simp only [putInto]
    split
    · next hlt =>
      have absent : (y :: ys).find? (fun x => decide (x.num = e.num)) = none := by
        rw [List.find?_eq_none]
        intro z hz
        have above : e.num < z.num := by
          rcases List.mem_cons.mp hz with rfl | hz
          · exact hlt
          · exact BitVec.lt_trans hlt (lower z hz)
        rw [decide_eq_true_eq]
        exact fun same => BitVec.lt_irrefl _ (same ▸ above)
      rw [absent]
      simp only [List.map_cons, List.sum_cons, Option.map_none, Option.getD_none]
      omega
    · split
      · next he =>
        rw [List.find?_cons_of_pos (by simpa using he.symm)]
        simp only [List.map_cons, List.sum_cons, Option.map_some, Option.getD_some]
        omega
      · next he =>
        rw [List.find?_cons_of_neg (by simpa using Ne.symm he)]
        simp only [List.map_cons, List.sum_cons]
        omega

/-- An entry's weight in the count of PINNED and GROUP entries. -/
def DirEntry.place (e : DirEntry) : Nat := if e.placed then 1 else 0

theorem placedCount_eq (s : State) : s.placedCount = (s.dir.map DirEntry.place).sum := by
  unfold State.placedCount
  induction s.dir with
  | nil => rfl
  | cons y ys ih => by_cases h : y.placed = true <;> simp [DirEntry.place, h, ih]; omega

theorem length_eq_sum (l : List DirEntry) : l.length = (l.map fun _ => 1).sum := by simp

/-- A directory whose entries are some of those before, or nothing where they were PINNED or GROUP entries no more. -/
theorem dirLaw_of_le (rising : s'.dir.Pairwise fun a b => a.num < b.num) (length : s'.dir.length ≤ s.dir.length)
    (placed : s'.placedCount ≤ s.placedCount) (h : s.dirLaw) : s'.dirLaw := by
  obtain ⟨-, room, places⟩ := h
  exact ⟨rising, length.trans room, placed.trans places⟩

theorem dirLaw_put {e : DirEntry} (hr : (s.entry e.num).isSome = true ∨ s.dirFull = false)
    (hp : e.placed = true → (∃ o, s.entry e.num = some o ∧ o.placed = true) ∨ s.placesFull = false) (h : s.dirLaw) :
    (s.setDir (putInto e s.dir)).dirLaw := by
  obtain ⟨rising, room, places⟩ := h
  refine ⟨putInto_rising rising, ?_, ?_⟩
  · have total := sum_putInto (fun _ => 1) e rising
    rw [← length_eq_sum, ← length_eq_sum] at total
    simp only [State.setDir_dir]
    rcases hr with old | free
    · obtain ⟨o, ho⟩ := Option.isSome_iff_exists.mp old
      unfold State.entry at ho
      rw [ho] at total
      simp only [Option.map_some, Option.getD_some] at total
      omega
    · simp only [State.dirFull, decide_eq_false_iff_not, not_le] at free
      omega
  · have total := sum_putInto DirEntry.place e rising
    rw [placedCount_eq] at places ⊢
    simp only [State.setDir_dir]
    by_cases placed : e.placed = true
    · rcases hp placed with ⟨o, ho, old⟩ | free
      · unfold State.entry at ho
        rw [ho] at total
        simp only [Option.map_some, Option.getD_some] at total
        have was : o.place = 1 := if_pos old
        have is : e.place = 1 := if_pos placed
        omega
      · simp only [State.placesFull, decide_eq_false_iff_not, not_le, placedCount_eq] at free
        have : e.place = 1 := if_pos placed
        omega
    · have : e.place = 0 := if_neg placed
      omega

theorem rising_dir_filterMap {l : List DirEntry} (h : l.Pairwise fun a b => a.num < b.num) :
    (l.filterMap restartEntry).Pairwise fun a b => a.num < b.num := by
  rw [List.pairwise_filterMap]
  refine h.imp fun {a b} hab x hx y hy => ?_
  obtain ⟨ha, -⟩ := restartEntry_eq_some hx
  obtain ⟨hb, -⟩ := restartEntry_eq_some hy
  rwa [ha, hb]

theorem Move.dirLaw (h : Move s s') (hs : s.dirLaw) : s'.dirLaw := by
  have kept : s'.dir = s.dir → s'.dirLaw := fun hd => by
    unfold State.dirLaw State.placedCount at *
    rwa [hd]
  cases h with
  | service h =>
    cases h with
    | station n st st' hst hk =>
      have entry := entry_of_station s hst
      refine dirLaw_put (.inl (by rw [entry]; rfl)) (fun placed => .inl ⟨_, entry, ?_⟩) hs
      rw [placed_station] at placed ⊢
      exact hk placed
    | drop n =>
      obtain ⟨rising, -, -⟩ := id hs
      refine dirLaw_of_le (rising.sublist List.filter_sublist) (List.length_filter_le _ _) ?_ hs
      exact (List.filter_sublist.filter _).length_le
    | fifo e c q _ => exact kept (setFifo_dir _ _ _)
    | append e c q _ => exact kept (setFifo_dir _ _ _)
    | _ => exact kept rfl
  | put e hr hp => exact dirLaw_put hr hp hs
  | clearDir =>
    obtain ⟨rising, -, -⟩ := id hs
    refine dirLaw_of_le (rising_dir_filterMap rising) (List.length_filterMap_le _ _) ?_ hs
    have each : ∀ e e', restartEntry e = some e' → e'.place ≤ e.place := fun e e' he => by
      unfold restartEntry at he
      split at he
      · cases he
        exact le_rfl
      · next st hb =>
        split at he
        · cases he
        · next hk =>
          have : e.place = 1 := if_pos (by simp [DirEntry.placed, hb, hk])
          rw [this]
          unfold DirEntry.place
          split <;> omega
    rw [placedCount_eq, placedCount_eq, State.setDir_dir]
    clear kept hs rising
    induction s.dir with
    | nil => exact le_rfl
    | cons y ys ih =>
      rw [List.filterMap_cons, List.map_cons, List.sum_cons]
      split
      · omega
      · next e' he =>
        have := each y e' he
        rw [List.map_cons, List.sum_cons]
        omega
  | reset straps flt => exact ⟨.nil, Nat.zero_le _, Nat.zero_le _⟩
  | _ => exact kept rfl

end Directory

/-- Settles O59: the capacities by the acts of `Move`, the numbers and the held counts by the deeds of a step. -/
theorem directoryLaws : Obligations.DirectoryLaws := by
  refine ⟨fun _ _ hs h => step_preserve (fun _ _ h => h) (fun _ _ h => h.dirLaw) hs h, fun s s' hs h => ?_,
    fun s s' hs hr ha _ hn hh h => ?_⟩
  · have numbered : s'.Numbered := (step_runs h).preserve (P := fun c => c.s.Numbered) (fun _ _ h => h.numbered) (numbered_iff.mpr hs)
    exact numbered_iff.mp numbered
  · have laws := (step_runs h).preserve (P := fun c => c.Sound ∧ c.s.Numbered ∧ c.Charged)
      (fun _ _ h ⟨sound, numbered, charged⟩ => ⟨h.sound sound, h.numbered numbered, h.charged sound numbered charged⟩)
      ⟨(sound_iff hs.1).mpr ⟨hr, ha⟩, numbered_iff.mpr hn, charged_iff.mpr hh⟩
    obtain ⟨-, -, charged⟩ := laws
    exact charged_iff.mp charged

end Sys2Proof.Machine
end


section
/-!
PROOFS. Steps, the start of operation with its parameters and its notices (05 R108, 08 R165, 09 R167), and the laws at reset.
-/

namespace Sys2Proof.Machine

/-- Settles O1: a step is the command's execution on the queue's rest, by definition; an empty queue is a tick. -/
theorem stepRunsFrontCommand : Obligations.StepRunsFrontCommand := by
  refine ⟨fun _ _ _ => rfl, fun s => congrArg Host.Outcome.next ?_⟩
  unfold tick
  by_cases h : s.inReset = true
  · rw [State.setPending_inReset, if_pos h, if_pos h]
    rfl
  · rw [State.setPending_inReset, if_neg h, if_neg h]
    rfl

/-! ### The notices of the start of operation -/

/-- Notices with these fields, numbered from `q` on, none lost before them. -/
def numbered : Byte → List NoticeFields → List Notice
  | _, [] => []
  | q, f :: fs => ⟨q, 0, f⟩ :: numbered (q + 1) fs

theorem length_numbered (q : Byte) (fs : List NoticeFields) : (numbered q fs).length = fs.length := by
  induction fs generalizing q with
  | nil => rfl
  | cons f fs ih => rw [numbered, List.length_cons, ih, List.length_cons]

theorem fields_numbered (q : Byte) (fs : List NoticeFields) : (numbered q fs).map Notice.fields = fs := by
  induction fs generalizing q with
  | nil => rfl
  | cons f fs ih => rw [numbered, List.map_cons, ih]

theorem lost_of_mem_numbered {q : Byte} {fs : List NoticeFields} {n : Notice} (h : n ∈ numbered q fs) : n.lost = 0 := by
  induction fs generalizing q with
  | nil => cases h
  | cons f fs ih =>
    rcases List.mem_cons.mp h with rfl | h
    · rfl
    · exact ih h

/-- Up to four notices after the first have the sequences from 1 on. -/
theorem seq_numbered {fs : List NoticeFields} (h : fs.length ≤ 4) :
    (numbered 1 fs).map Notice.seq = ([1, 2, 3, 4] : List Byte).take fs.length := by
  match fs, h with
  | [], _ => rfl
  | [_], _ => rfl
  | [_, _], _ => rfl
  | [_, _, _], _ => rfl
  | [_, _, _, _], _ => rfl
  | _ :: _ :: _ :: _ :: _ :: _, h => simp only [List.length_cons] at h; omega

/-- Notices that are on and find room are queued in their order. -/
theorem raiseAll_link {fs : List NoticeFields} {s : State} (on : ∀ f ∈ fs, noticeOn s.params f.kind = true)
    (room : s.link.pendingNotices.length + fs.length ≤ Config.noticeRoom) (lost : s.link.lost = 0) :
    (raiseAll fs s).link =
      { s.link with
        pendingNotices := s.link.pendingNotices ++ numbered s.link.noticeSeq fs
        noticeSeq := s.link.noticeSeq + byteOf fs.length } := by
  induction fs generalizing s with
  | nil => simp [raiseAll, numbered, byteOf]
  | cons f fs ih =>
    simp only [List.length_cons] at room
    have raised : raise f s = s.modLink fun l =>
        { l with pendingNotices := l.pendingNotices ++ [⟨l.noticeSeq, l.lost, f⟩], noticeSeq := l.noticeSeq + 1, lost := 0 } := by
      unfold raise
      rw [if_pos (on f List.mem_cons_self), if_neg (by omega)]
    have rest := ih (s := raise f s) (by rw [raised]; exact fun g hg => on g (List.mem_cons_of_mem _ hg))
      (by rw [raised]; simp only [State.modLink_link, List.length_append, List.length_singleton]; omega) (by rw [raised]; rfl)
    have count : s.link.noticeSeq + 1 + byteOf fs.length = s.link.noticeSeq + byteOf (fs.length + 1) := by
      unfold byteOf
      rw [BitVec.add_assoc, Nat.add_comm fs.length, BitVec.ofNat_add]
      rfl
    rw [show raiseAll (f :: fs) s = raiseAll fs (raise f s) from rfl, rest, raised]
    simp only [State.modLink_link, numbered, lost, List.append_assoc, List.singleton_append, List.length_cons, count]

/-- The trunks reported FAULTED when a reset ends. -/
def faultReports (flt : Quad Bool) : List NoticeFields :=
  (([0, 1, 2, 3] : List TrunkId).filter fun u => flt.get u).map fun u => .line u .faulted

theorem length_faultReports (flt : Quad Bool) : (faultReports flt).length ≤ 4 := by
  unfold faultReports
  rw [List.length_map]
  exact List.length_filter_le _ _

section StartUp

variable (r : StartReason) (straps : Straps) (flt : Quad Bool) (s : State)

theorem startUp_link : (startUp r straps flt s).link =
    { HostLink.reset with
      tx := .notice ⟨0x61, 0, [0, 0x01, r.code]⟩
      pendingNotices := numbered 1 (faultReports flt)
      noticeSeq := byteOf ((faultReports flt).length + 1)
      unacked := [⟨⟨0, 0, .started r⟩, 0⟩]
      counters := ⟨0, 0, 0, 0, 0, 1, 0, 0, 0, 0, 0⟩ } := by
  have on : ∀ f ∈ startReports r flt, noticeOn (afterReset straps flt s).params f.kind = true := fun f hf => by
    rcases kind_of_mem_startReports hf with hk | hk <;> rw [hk] <;> rfl
  have reports : startReports r flt = .started r :: faultReports flt := rfl
  have few := length_faultReports flt
  have raised := raiseAll_link on (s := afterReset straps flt s)
    (by rw [reports]; change 0 + (_ + 1) ≤ 32; omega) rfl
  rw [startUp_eq_startNotice]
  generalize raiseAll (startReports r flt) (afterReset straps flt s) = u at raised
  rw [reports] at raised
  have pending : u.link.pendingNotices = ⟨0, 0, .started r⟩ :: numbered 1 (faultReports flt) := by
    rw [raised]
    rfl
  rw [startNotice, pending]
  simp only [countLink, State.modLink_link, raised, List.length_cons]
  have seq : (afterReset straps flt s).link.noticeSeq + byteOf ((faultReports flt).length + 1) =
      byteOf ((faultReports flt).length + 1) := BitVec.zero_add _
  rw [seq]
  rfl

end StartUp

/-- Settles O2: start-up changes the host link alone, whose queue then holds the reports after STARTED. -/
theorem startOfOperation : Obligations.StartOfOperation := by
  intro straps flt s c r hc
  have hexec : exec c s = .next (startUp r straps flt s) := by
    rcases hc with ⟨rfl, rfl⟩ | ⟨rfl, rfl⟩ <;> rfl
  refine ⟨_, hexec, ?_⟩
  have blocks := startUp_eq_setLink r straps flt s
  refine ⟨?_, ?_, ?_, ?_, ?_, fun u => ?_, ?_⟩
  · rw [blocks]; rfl
  · rw [blocks]; rfl
  · rw [blocks]; rfl
  · rw [blocks]; rfl
  · rw [blocks]; rfl
  · rw [startUp_trunk]
    exact ⟨rfl, rfl, rfl, rfl, rfl, rfl, rfl, rfl, rfl, rfl, rfl, rfl, rfl, rfl⟩
  · rw [startUp_link]
    refine ⟨rfl, rfl, rfl, rfl, rfl, rfl, rfl, rfl, rfl, rfl, rfl, rfl, rfl, fields_numbered _ _, ?_, ?_, fun n hn => lost_of_mem_numbered hn⟩
    · rw [length_numbered]
      exact seq_numbered (length_faultReports flt)
    · rw [length_numbered]

/-- Settles O6: the parameters stand at their reset values, which are the table's defaults. -/
theorem parameterDefaults : Obligations.ParameterDefaults := by
  intro straps flt s c hc
  obtain ⟨reason, hexec⟩ := exec_eq_startUp s hc
  refine ⟨_, hexec, ?_⟩
  rw [startUp_params]
  refine ⟨fun u => ?_, rfl, rfl, rfl, rfl, rfl, rfl, rfl, rfl, fun k => ?_, rfl, rfl, fun k => ?_⟩
  · match u with
    | 0 | 1 | 2 | 3 => exact ⟨rfl, rfl, rfl, rfl, rfl, rfl, rfl, rfl, rfl, rfl, rfl, rfl, rfl, rfl, rfl⟩
  · match k with
    | 0 | 1 | 2 | 3 => rfl
  · cases k <;> rfl

/-! ### The laws at reset -/

theorem reset_cleared : State.reset.Cleared where
  tickets := rfl
  fifo e c := by
    cases e with
    | trunk t =>
      rw [State.fifo, show State.reset.trunk t = Trunk.reset .sound from Quad.get_all _ _]
      exact Quad.get_all _ _
    | host => exact Quad.get_all _ _
  txn t := by
    rw [show State.reset.trunk t = Trunk.reset .sound from Quad.get_all _ _]
    rfl
  rx := rfl

/-- Settles O55: nothing is in use, held or queued at reset, and the parameters are the defaults. -/
theorem lawsAtReset : Obligations.LawsAtReset := by
  have store : State.reset.storeLaw := storeLaw_of_empty rfl rfl rfl
  obtain ⟨refs, arrivals⟩ := (sound_iff store.1).mp reset_cleared.sound
  have numbers : State.reset.Numbered := by
    refine ⟨fun e he => (by cases he), fun e he => (by cases he), fun t n h ha => ?_⟩
    simp only [State.arriving, reset_cleared.txn] at ha
    cases ha
  have held := charged_of_cleared reset_cleared fun e he => by cases he
  exact ⟨paramLaw_of_reset rfl, Nat.zero_le _, ⟨Nat.zero_le _, Nat.zero_le _⟩, fun t _ => reset_cleared.txn t, store, refs, arrivals,
    ⟨.nil, Nat.zero_le _, Nat.zero_le _⟩, numbered_iff.mp numbers, charged_iff.mp held,
    fun e => (entries_of_fifo_nil (reset_cleared.fifo e)).trans_le (Nat.zero_le _)⟩
end Sys2Proof.Machine
end


section
/-!
PROOFS. The reset line and the fault inputs (05 R85, R86, R103, 08 R147): what halts, what an abandonment leaves, the end of a quiet period
that a RESTART waits for.
-/

namespace Sys2Proof.Machine

/-! ### The reset line -/

theorem whileRunning_running {s : State} (h : s.inReset = false) (f : State → State) : whileRunning s f = .next (f s) := by
  simp [whileRunning, h]

theorem whileRunning_held {s : State} (h : s.inReset = true) (f : State → State) : whileRunning s f = .next s := by
  simp [whileRunning, h]

theorem silence_trunk (t u : TrunkId) (s : State) :
    (silence t s).trunk u = if u = t then { s.trunk u with tx := none } else s.trunk u := by
  unfold silence
  rw [State.modTrunk_trunk]
  split
  · next h => rw [h]
  · rfl

/-- Every trunk silenced. -/
theorem silenced_trunk (u : TrunkId) (s : State) :
    (silence 3 (silence 2 (silence 1 (silence 0 s)))).trunk u = { s.trunk u with tx := none } := by
  simp only [silence_trunk]
  match u with
  | 0 | 1 | 2 | 3 => rfl

/-- While the line is held only the fault pins are followed. -/
theorem exec_held {c : Instr} {s : State} (h : s.inReset = true) (hp : ∀ a f, c ≠ .powerOn a f) (hr : ∀ a f, c ≠ .resetLine a f)
    (hf : ∀ t, c ≠ .lineFault t) (hs : ∀ t, c ≠ .lineSound t) (ha : c ≠ .resetAsserted) : exec c s = .next s := by
  cases c with
  | powerOn a f => exact absurd rfl (hp a f)
  | resetLine a f => exact absurd rfl (hr a f)
  | lineFault t => exact absurd rfl (hf t)
  | lineSound t => exact absurd rfl (hs t)
  | resetAsserted => exact absurd rfl ha
  | _ => exact whileRunning_held h _

/-- Time stands still while the line is held. -/
theorem step_held {s : State} (h : s.inReset = true) : step (s.setPending []) = .next (s.setPending []) := by
  change Host.Outcome.next (tick (s.setPending [])) = _
  simp [tick, h]

/-- Settles O7: the trunks' transmitters one after the other; what follows is read off `whileRunning`. -/
theorem resetLineHalts : Obligations.ResetLineHalts := by
  refine ⟨fun s => ⟨_, rfl, rfl, ?_, fun u => ?_, ?_⟩, fun s h =>
    ⟨fun t => whileRunning_held (s := setPin t true s) h _, fun t => whileRunning_held (s := setPin t false s) h _,
    fun c hp hr hf hs ha => exec_held h hp hr hf hs ha⟩⟩
  · rw [State.setInReset_link, State.modLink_link]
    rfl
  · rw [State.setInReset_trunk, State.modLink_trunk, silenced_trunk]
  · rw [step_held rfl]
    simp [silence]

/-! ### Abandonment -/

section Abandon

variable {s : State} {t : TrunkId} {c : Cls} {q : QEntry} {qs : List QEntry}

theorem inFlight_of_trunk {s' : State} (h : s'.trunk t = s.trunk t) : s'.inFlight (.trunk t) = s.inFlight (.trunk t) := by
  simp only [State.inFlight, h]

theorem popHead_eq {e : Port} (h : s.fifo e c = q :: qs) : popHead e c s = setFifo e c qs s := by
  rw [popHead, h, List.tail_cons]

theorem abandonEntry_none (h : s.inFlight (.trunk t) = none) : abandonEntry t s = s := by
  simp only [abandonEntry, h]

theorem abandonEntry_marked (h : s.inFlight (.trunk t) = some c) (hq : s.fifo (.trunk t) c = q :: qs) (hm : q.flushMark = true) :
    abandonEntry t s = flushedEntry t q (setFifo (.trunk t) c qs s) := by
  simp only [abandonEntry, h, hq, hm, if_true, popHead_eq hq]

theorem abandonEntry_spread (h : s.inFlight (.trunk t) = some c) (hq : s.fifo (.trunk t) c = q :: qs) (hm : q.flushMark = false)
    (ha : (s.trunk t).activity = .spreading) (hp : (s.trunk t).txn.map Txn.phase = some .ended) :
    abandonEntry t s = dropRef q.ticket (setFifo (.trunk t) c qs s) := by
  simp only [abandonEntry, h, hq, hm, ha, hp, popHead_eq hq, Bool.false_eq_true, if_false, and_self, if_true]

theorem abandonEntry_kept (h : s.inFlight (.trunk t) = some c) (hq : s.fifo (.trunk t) c = q :: qs) (hm : q.flushMark = false)
    (ha : (s.trunk t).activity ≠ .spreading ∨ (s.trunk t).txn.map Txn.phase ≠ some .ended) : abandonEntry t s = s := by
  have : ¬((s.trunk t).activity = .spreading ∧ (s.trunk t).txn.map Txn.phase = some .ended) := fun ⟨h1, h2⟩ => by
    rcases ha with ha | ha
    · exact ha h1
    · exact ha h2
  simp only [abandonEntry, h, hq, hm, Bool.false_eq_true, if_false, this]

theorem abandon_eq (s : State) (t : TrunkId) : abandon t false s = (abandonEntry t (giveBackTxn t s)).modTrunk t Trunk.abandoned := rfl

/-- The trunk's record after an abandonment that does not flush: the mode, the line and the rest of an abandoned record. -/
theorem abandon_trunk (s : State) (t : TrunkId) : ∃ k : Trunk, (abandon t false s).trunk t = k.abandoned ∧ k.mode = (s.trunk t).mode := by
  refine ⟨(abandonEntry t (giveBackTxn t s)).trunk t, ?_, ((giveBackTxn_services s t).trans (abandonEntry_services _ t)).mode t⟩
  rw [abandon_eq, State.modTrunk_trunk_self]

end Abandon

/-! ### The report to a RESTART -/

section Report

variable {s : State} {t : TrunkId}

theorem completeRestart_kept (s : State) (p : RestartProgress) : (completeRestart p s).trunks = s.trunks ∧
    (completeRestart p s).params = s.params ∧ (completeRestart p s).clock = s.clock ∧ (completeRestart p s).fltPins = s.fltPins := by
  unfold completeRestart
  simp only
  split <;> simp [queueReply, setCache]

theorem reportQuiet_kept (s : State) (t : TrunkId) : (reportQuiet t s).trunks = s.trunks ∧
    (reportQuiet t s).params = s.params ∧ (reportQuiet t s).clock = s.clock ∧ (reportQuiet t s).fltPins = s.fltPins := by
  unfold reportQuiet checkRestart
  split
  · split
    · split
      · split
        · exact completeRestart_kept _ _
        · exact ⟨rfl, rfl, rfl, rfl⟩
      · exact ⟨rfl, rfl, rfl, rfl⟩
    · exact ⟨rfl, rfl, rfl, rfl⟩
  · exact ⟨rfl, rfl, rfl, rfl⟩

/-- A trunk that no RESTART waits for. -/
theorem reportQuiet_idle (h : ∀ p, s.link.restart = some p → p.waiting.get t = false) : reportQuiet t s = s := by
  unfold reportQuiet
  split
  · next p hp => simp [h p hp]
  · rfl

/-- A report that is not the last one awaited. -/
theorem reportQuiet_waiting {p : RestartProgress} (h : s.link.restart = some p) (ht : p.waiting.get t = true)
    (hn : p.waiting.set t false ≠ Quad.all false) :
    reportQuiet t s = s.modLink fun l => { l with restart := some { p with waiting := p.waiting.set t false } } := by
  simp only [reportQuiet, h, ht, if_true, checkRestart, State.modLink_link, hn, if_false]

/-- The last report awaited completes the RESTART (08 R164, 09 R182). -/
theorem reportQuiet_last {p : RestartProgress} {r : CacheRecord} (h : s.link.restart = some p) (ht : p.waiting.get t = true)
    (hn : p.waiting.set t false = Quad.all false) (hc : s.link.cache = some r) :
    reportQuiet t s = wakeAll (raise (.started .restart) (s.modLink fun l =>
      { l with
        restart := none
        cache := some { r with reply := some (doneReply r.seq p.figures.bytes) }
        replies := l.replies ++ [doneReply r.seq p.figures.bytes] })) := by
  simp only [reportQuiet, h, ht, if_true, checkRestart, State.modLink_link, hn, completeRestart, hc, setCache, queueReply,
    State.modLink_modLink]

end Report

/-! ### The fault inputs -/

section Lines

variable {s : State} {t : TrunkId}

/-- A line that becomes FAULTED, before the report to a RESTART. -/
def lineLost (t : TrunkId) (s : State) : State :=
  raise (.line t .faulted) ((abandon t false s).modTrunk t fun k => { k with line := .faulted, rx := .none })

theorem exec_lineFault_sound (h : s.inReset = false) (hl : (s.trunk t).line = .sound) :
    exec (.lineFault t) s = .next (finish (reportQuiet t (lineLost t (s.setFltPins (s.fltPins.set t true))))) := by
  exact (whileRunning_running (s := setPin t true s) h _).trans (congrArg Host.Outcome.next (if_pos hl))

theorem exec_lineFault_faulted (h : s.inReset = false) (hl : (s.trunk t).line = .faulted) :
    exec (.lineFault t) s = .next (s.setFltPins (s.fltPins.set t true)) := by
  exact (whileRunning_running (s := setPin t true s) h _).trans (congrArg Host.Outcome.next (if_neg (by simp [setPin, hl])))

theorem exec_lineSound_faulted (h : s.inReset = false) (hl : (s.trunk t).line = .faulted) :
    exec (.lineSound t) s = .next (soundLine t (s.setFltPins (s.fltPins.set t false))) := by
  exact (whileRunning_running (s := setPin t false s) h _).trans (congrArg Host.Outcome.next (if_pos hl))

theorem exec_lineSound_sound (h : s.inReset = false) (hl : (s.trunk t).line = .sound) :
    exec (.lineSound t) s = .next (s.setFltPins (s.fltPins.set t false)) := by
  exact (whileRunning_running (s := setPin t false s) h _).trans (congrArg Host.Outcome.next (if_neg (by simp [setPin, hl])))

theorem lineLost_trunks (s : State) (t u : TrunkId) : (lineLost t s).trunk u =
    if u = t then { (abandon t false s).trunk t with line := .faulted, rx := .none } else (abandon t false s).trunk u := by
  unfold lineLost
  rw [trunk_of_trunks (raise_trunks _ _), State.modTrunk_trunk]

theorem lineLost_link (s : State) (t : TrunkId) :
    (lineLost t s).link.restart = s.link.restart ∧ (lineLost t s).link.cache = s.link.cache := by
  have abandoned := (abandon_services s t false).link
  have raised := (raise_services ((abandon t false s).modTrunk t fun k => { k with line := .faulted, rx := .none }) (.line t .faulted)).link
  exact ⟨raised.restart.trans abandoned.restart, raised.cache.trans abandoned.cache⟩

/-- A quiet period as one act. -/
theorem goQuiet_eq (s : State) (t : TrunkId) : goQuiet t s = s.modTrunk t fun k =>
    { k with activity := .quiet, timer := some (s.clock + ((s.tparams t).replyTimeout + (s.tparams t).settleGap)) } := by
  unfold goQuiet startTimer
  rw [State.modTrunk_modTrunk]
  rfl

end Lines

/-- Settles O8: an abandonment case by case of its entry; the line inputs on a SOUND and a FAULTED line, the report to a RESTART case by
case. -/
theorem faultInputs : Obligations.FaultInputs := by
  refine ⟨fun t s => ?_, fun t s h => ⟨fun hl => ?_, fun hl v hv => ?_, fun hl => exec_lineFault_faulted h hl⟩,
    fun t s h => ⟨fun hl hm => ?_, fun hl hm => ?_, fun hl => exec_lineSound_sound h hl⟩⟩
  · intro w abandons
    have trunk : w.trunk t = s.trunk t := trunk_of_trunks (giveBack_trunks _ _) t
    have flight : w.inFlight (.trunk t) = s.inFlight (.trunk t) := inFlight_of_trunk trunk
    have fifo : ∀ c, w.fifo (.trunk t) c = s.fifo (.trunk t) c := fun c =>
      fifo_of_trunks (giveBack_trunks _ _) (giveBack_hostEgress _ _) (.trunk t) c
    have leaves {u : State} (hu : abandonEntry t w = u) : abandons false u := by
      subst hu
      exact abandon_eq s t
    refine ⟨rfl, fun hn => leaves (abandonEntry_none (flight.trans hn)), fun c q qs hf hq => ⟨fun hm => ?_, fun hm ha hp => ?_, fun hm ha => ?_⟩⟩
    · exact leaves (abandonEntry_marked (flight.trans hf) ((fifo c).trans hq) hm)
    · exact leaves (abandonEntry_spread (flight.trans hf) ((fifo c).trans hq) hm (trunk ▸ ha) (trunk ▸ hp))
    · exact leaves (abandonEntry_kept (flight.trans hf) ((fifo c).trans hq) hm (trunk ▸ ha))
  · refine ⟨_, exec_lineFault_sound h hl, ?_⟩
    have abandoned := abandon_services (s.setFltPins (s.fltPins.set t true)) t false
    have raised := raise_services ((abandon t false (s.setFltPins (s.fltPins.set t true))).modTrunk t
      fun k => { k with line := .faulted, rx := .none }) (.line t .faulted)
    obtain ⟨trunks, params, clock, pins⟩ := reportQuiet_kept (lineLost t (s.setFltPins (s.fltPins.set t true))) t
    obtain ⟨k, record, mode⟩ := abandon_trunk (s.setFltPins (s.fltPins.set t true)) t
    have own := lineLost_trunks (s.setFltPins (s.fltPins.set t true)) t t
    rw [if_pos rfl, record] at own
    rw [trunk_of_trunks trunks, own]
    refine ⟨pins.trans (raised.fltPins.trans abandoned.fltPins), rfl, mode, rfl, rfl, rfl, rfl, rfl, rfl, fun v hv => ?_,
      params.trans (raised.params.trans abandoned.params), clock.trans (raised.clock.trans abandoned.clock)⟩
    rw [trunk_of_trunks trunks, lineLost_trunks, if_neg hv]
    exact abandoned.line v
  · obtain ⟨restart, cache⟩ := lineLost_link (s.setFltPins (s.fltPins.set t true)) t
    have run := exec_lineFault_sound h hl
    have hv : v = lineLost t (s.setFltPins (s.fltPins.set t true)) := hv
    rw [← hv] at run restart cache
    refine ⟨fun hp => ?_, fun p hp ht hn => ?_, fun p r hp ht hn hc m hm => ?_⟩
    · rw [run, reportQuiet_idle fun p h => hp p (restart.symm.trans h)]
    · rw [run, reportQuiet_waiting (restart.trans hp) ht hn]
    · rw [run, reportQuiet_last (restart.trans hp) ht hn (cache.trans hc), hm]
      rfl
  · rw [exec_lineSound_faulted h hl]
    unfold soundLine
    simp only
    rw [if_pos]
    rw [trunk_of_trunks (raise_trunks _ _), State.modTrunk_trunk_self]
    exact hm
  · rw [exec_lineSound_faulted h hl]
    unfold soundLine
    simp only
    rw [if_neg, goQuiet_eq]
    · have raised := raise_services ((s.setFltPins (s.fltPins.set t false)).modTrunk t fun k => { k with line := .sound }) (.line t .sound)
      rw [raised.clock, State.tparams, raised.params]
      rfl
    · rw [trunk_of_trunks (raise_trunks _ _), State.modTrunk_trunk_self]
      exact hm

end Sys2Proof.Machine
end


section
/-!
PROOFS. The judgement of requests (08 R150 to R152), and the requests that fail for their body or an operand (09 section 9.1).
-/

namespace Sys2Proof.Machine

/-! ### Requests as commands -/

section Commands

variable {s : State} {c : Instr} {kind seq : Byte} {body : List Byte}

theorem dropArrival_granted {n k : Nat} (h : s.link.rx = .collecting n (some (.granted k))) :
    dropArrival s = releaseFilling k (s.modLink fun l => { l with rx := .hunting }) := by
  simp only [dropArrival, h, giveBack]

/-- What a filled ticket holds is released with it. -/
theorem dropArrival_fillArrival (body : List Byte) (s : State) :
    dropArrival (countIn (fillArrival body s)) = dropArrival (countIn s) := by
  have released : ∀ {n k : Nat} (d : Num) (cls : Byte) (data : List Byte), s.link.rx = .collecting n (some (.granted k)) →
      dropArrival (countIn (fillTicket k d cls data s)) = dropArrival (countIn s) := fun {n k} d cls data hx => by
    have hx' : (countIn (fillTicket k d cls data s)).link.rx = .collecting n (some (.granted k)) := by
      change (fillTicket k d cls data s).link.rx = _
      rw [fillTicket_link, hx]
    have hx'' : (countIn s).link.rx = .collecting n (some (.granted k)) := hx
    have counted : countIn (fillTicket k d cls data s) = fillTicket k d cls data (countIn s) := by
      unfold countIn countLink
      rw [← fillTicket_modLink]
    rw [dropArrival_granted hx', dropArrival_granted hx'', counted, ← fillTicket_modLink, releaseFilling_fillTicket]
  unfold fillArrival
  split
  · next hx =>
    split
    · split
      · exact released _ _ _ hx
      · rfl
    · rfl
  all_goals rfl

/-- A request's command is its message judged, from a state that is the exchange's but for what the message brought of a SEND. -/
theorem exec_eq_request (hm : c.asMessage = some (kind, seq, body)) (hw : c.wellFormed = true) (h1 : kind ≠ 0x21)
    (h2 : kind ≠ 0x22) (s : State) : body.length ≤ Config.maxBody ∧ ∃ (u : State) (drop : State → State) (run : State → State × Answer),
      exec c s = whileRunning s (fun _ => request kind seq body drop run u) ∧ u.link = s.link ∧
        drop (countIn u) = if kind = 0x1A then dropArrival (countIn s) else countIn s := by
  have plain {k q : Byte} {b : List Byte} {run : State → State × Answer} (hb : bodyFits b = true) (hk : k ≠ 0x1A) :
      b.length ≤ Config.maxBody ∧ ∃ (u : State) (drop : State → State) (run' : State → State × Answer),
        whileRunning s (plainRequest k q b run) = whileRunning s (fun _ => request k q b drop run' u) ∧ u.link = s.link ∧
          drop (countIn u) = if k = 0x1A then dropArrival (countIn s) else countIn s :=
    ⟨of_decide_eq_true hb, s, id, run, rfl, rfl, by rw [if_neg hk]; rfl⟩
  cases c
  case send q b =>
    cases hm
    refine ⟨of_decide_eq_true hw, fillArrival body s, dropArrival, runSend body, rfl, ?_, ?_⟩
    · unfold fillArrival
      split
      · split
        · split
          · exact fillTicket_link _ _ _ _ _
          · rfl
        · rfl
      all_goals rfl
    · rw [if_pos rfl]
      exact dropArrival_fillArrival body s
  case unknownKindRequest k q b =>
    cases hm
    simp only [Instr.wellFormed, Bool.and_eq_true, Bool.not_eq_true'] at hw
    obtain ⟨⟨fits, unknown⟩, -⟩ := hw
    refine plain fits ?_
    rintro rfl
    exact absurd unknown (by decide)
  case credit q b =>
    cases hm
    exact absurd rfl h1
  case noted q b =>
    cases hm
    exact absurd rfl h2
  case hello | set | get | trunk | pin | group | forget | lookup | walk | stats | flush | restart =>
    cases hm
    exact plain hw (by decide)
  all_goals cases hm

theorem dropArrival_cache (s : State) : (dropArrival s).link.cache = s.link.cache := by
  unfold dropArrival
  split
  · exact (giveBack_services _ _).link.cache
  · rfl
  · rfl

/-- Settles O9: each of the three outcomes is a branch of `judgeRequest`, reached through the lengths and the cache as the message found
them. -/
theorem requestJudgement : Obligations.RequestJudgement := by
  intro c kind seq body s hm hw h1 h2 hr d
  obtain ⟨fits, u, drop, run, hexec, link, dropped⟩ := exec_eq_request hm hw h1 h2 s
  have judged : exec c s = .next (finish (resume (judgeRequest seq (messageCheck kind seq body) drop run (countIn u)))) := by
    rw [hexec, whileRunning_running hr, request, if_pos fits]
  have dropped : drop (countIn u) = d := dropped
  have replies : (countIn u).link.replies = s.link.replies := by rw [← link]; rfl
  have cache : (countIn u).link.cache = s.link.cache := by rw [← link]; rfl
  have restart : (countIn u).link.restart = s.link.restart := by rw [← link]; rfl
  have room (h : s.link.replies.length < Config.replyRoom) : (countIn u).repliesFull = false := by
    rw [State.repliesFull, replies]
    exact decide_eq_false (by omega)
  have kept : d.link.cache = s.link.cache := by
    change (if kind = 0x1A then dropArrival (countIn s) else countIn s).link.cache = _
    split
    · exact dropArrival_cache _
    · rfl
  refine ⟨fun h => ?_, fun h r hr hq hc x hx => ?_, fun h hn hb => ?_⟩
  · have full : (countIn u).repliesFull = true := by
      rw [State.repliesFull, replies]
      exact decide_eq_true h
    rw [judged, judgeRequest, if_pos full, dropped]
  · have again : (countIn u).isReplay seq (messageCheck kind seq body) = true := by
      rw [State.isReplay, cache, hr]
      simp [hq, hc]
    have replayed : judgeRequest seq (messageCheck kind seq body) drop run (countIn u) = replay d := by
      rw [judgeRequest, room h, if_neg Bool.false_ne_true, if_pos again, dropped]
    have counted : (countLink (fun k => { k with replays := countUp k.replays }) d).link.cache = some r := kept.trans hr
    rw [judged, replayed, replay, counted, hx]
    exact ⟨fun m hm => by simp only [hm]; rfl, fun hn => by simp only [hn]⟩
  · have fresh : (countIn u).isReplay seq (messageCheck kind seq body) = false := by
      rw [State.isReplay, cache]
      exact hn
    have busy : (countIn u).link.restart.isSome = true := by
      rw [restart]
      exact Option.isSome_iff_ne_none.mpr hb
    rw [judged, judgeRequest, room h, fresh, busy, if_neg Bool.false_ne_true, if_neg Bool.false_ne_true, if_pos rfl, dropped]
    rfl

end Commands

/-! ### Bodies that a layout does not allow -/

section BadBody

variable {body : List Byte} (s : State)

theorem runSet_badBody (h : body.length ≠ 6) : runSet body s = (s, .failed .badBody) := by
  unfold runSet
  split
  · exact absurd rfl h
  · rfl

theorem runGet_badBody (h : body.length ≠ 2) : runGet body s = (s, .failed .badBody) := by
  unfold runGet
  split
  · exact absurd rfl h
  · rfl

theorem runTrunk_badBody (h : body.length ≠ 2) : runTrunk body s = (s, .failed .badBody) := by
  unfold runTrunk
  split
  · exact absurd rfl h
  · rfl

theorem runPin_badBody (h : body.length ≠ 6) : runPin body s = (s, .failed .badBody) := by
  unfold runPin
  split
  · exact absurd rfl h
  · rfl

theorem runGroup_badBody (h : body.length ≠ 3) : runGroup body s = (s, .failed .badBody) := by
  unfold runGroup
  split
  · exact absurd rfl h
  · rfl

theorem runForget_badBody (h : body.length ≠ 2) : runForget body s = (s, .failed .badBody) := by
  unfold runForget
  split
  · exact absurd rfl h
  · rfl

theorem runLookup_badBody (h : body.length ≠ 2) : runLookup body s = (s, .failed .badBody) := by
  unfold runLookup
  split
  · exact absurd rfl h
  · rfl

theorem runWalk_badBody (h : body.length ≠ 4) : runWalk body s = (s, .failed .badBody) := by
  unfold runWalk
  split
  · exact absurd rfl h
  · rfl

theorem runStats_badBody (h : body.length ≠ 2) : runStats body s = (s, .failed .badBody) := by
  unfold runStats
  split
  · exact absurd rfl h
  · rfl

theorem runFlush_badBody (h : body.length ≠ 2) : runFlush body s = (s, .failed .badBody) := by
  unfold runFlush
  split
  · exact absurd rfl h
  · rfl

theorem runRestart_badBody (h : body.length ≠ 1) : runRestart body s = (s, .failed .badBody) := by
  unfold runRestart
  split
  · exact absurd rfl h
  · rfl

end BadBody

/-- Settles O10: each run on a body of another length than its layout's, carried through the request's end. -/
theorem malformedRequestsFail : Obligations.MalformedRequestsFail := by
  refine ⟨fun kind seq body s ht => request_failed_same (e := .unknownKind) ht rfl, fun c kind seq body s hm ht hl hk hw => ?_⟩
  have length {k : Byte} {n : Nat} (hk : kind = k) (hn : (k, n) ∈ ([(0x11, 1), (0x12, 6), (0x13, 2), (0x14, 2), (0x15, 6), (0x16, 3),
      (0x17, 2), (0x18, 2), (0x19, 4), (0x1B, 2), (0x1C, 2), (0x1D, 1)] : List (Byte × Nat))) : body.length ≠ n := by
    rintro rfl
    exact hl (hk ▸ hn)
  have fails {run : State → State × Answer} (h : run (countIn s) = (countIn s, .failed .badBody)) :
      whileRunning s (plainRequest kind seq body run) = .next (answered kind seq body ⟨0x42, seq, [0x02, 0x00]⟩ (countIn s)) :=
    request_failed_same (e := .badBody) ht h
  cases c
  case hello => cases hm; exact fails (runHello_of_length_ne_one _ (length rfl (by decide)))
  case set => cases hm; exact fails (runSet_badBody _ (length rfl (by decide)))
  case get => cases hm; exact fails (runGet_badBody _ (length rfl (by decide)))
  case trunk => cases hm; exact fails (runTrunk_badBody _ (length rfl (by decide)))
  case pin => cases hm; exact fails (runPin_badBody _ (length rfl (by decide)))
  case group => cases hm; exact fails (runGroup_badBody _ (length rfl (by decide)))
  case forget => cases hm; exact fails (runForget_badBody _ (length rfl (by decide)))
  case lookup => cases hm; exact fails (runLookup_badBody _ (length rfl (by decide)))
  case walk => cases hm; exact fails (runWalk_badBody _ (length rfl (by decide)))
  case stats => cases hm; exact fails (runStats_badBody _ (length rfl (by decide)))
  case flush => cases hm; exact fails (runFlush_badBody _ (length rfl (by decide)))
  case restart => cases hm; exact fails (runRestart_badBody _ (length rfl (by decide)))
  case send => cases hm; exact absurd hk (by decide)
  case credit => cases hm; exact absurd hk (by decide)
  case noted => cases hm; exact absurd hk (by decide)
  case unknownKindRequest =>
    cases hm
    simp only [Instr.wellFormed, Bool.and_eq_true, Bool.not_eq_true', List.contains_eq_mem, decide_eq_false_iff_not] at hw
    obtain ⟨⟨-, unknown⟩, -⟩ := hw
    refine absurd ?_ unknown
    exact (by decide : ∀ k ∈ ([0x11, 0x12, 0x13, 0x14, 0x15, 0x16, 0x17, 0x18, 0x19, 0x1B, 0x1C, 0x1D] : List Byte), k ∈ requestKinds) _ hk
  all_goals cases hm

/-! ### Operands out of range -/

theorem parseTrunk_of_three_lt {b : Byte} (h : 3 < b.toNat) : parseTrunk b = none := dif_neg (by omega)

theorem parseTrunk_eq_some {b : Byte} {t : TrunkId} : parseTrunk b = some t ↔ b = byteOf t.val := by
  unfold parseTrunk
  constructor
  · intro h
    split at h
    · cases h
      exact (BitVec.ofNat_toNat 8 b ▸ BitVec.setWidth_eq b).symm
    · cases h
  · rintro rfl
    match t with
    | 0 | 1 | 2 | 3 => rfl

theorem parseMode_of_two_lt {b : Byte} (h : 2 < b.toNat) : parseMode b = none := by
  have : ∀ b : Byte, 2 < b.toNat → parseMode b = none := by decide +kernel
  exact this b h

theorem parseCap_outOfRange {b : Byte} (h0 : b ≠ 0) (h : b.toNat < 4 ∨ 128 < b.toNat) : parseCap b = none := by
  rw [parseCap, if_neg h0, if_neg (by omega)]

theorem parseMembers_outOfRange {b : Byte} (h : b = 0 ∨ 0x1F < b.toNat) : parseMembers b = none := by
  have upper : ∀ b : Byte, 0x1F < b.toNat → b &&& 0xE0 ≠ 0x00 := by decide +kernel
  refine if_neg fun ⟨h0, hb⟩ => ?_
  rcases h with h | h
  · exact h0 h
  · exact upper b h hb

theorem parseFilter_outOfRange {b : Byte} (h : b = 0 ∨ 7 < b.toNat) : parseFilter b = none := by
  have upper : ∀ b : Byte, 7 < b.toNat → b &&& 0xF8 ≠ 0x00 := by decide +kernel
  refine if_neg fun ⟨h0, hb⟩ => ?_
  rcases h with h | h
  · exact h0 h
  · exact upper b h hb

theorem parseClasses_outOfRange {b : Byte} (h : b = 0 ∨ 0x0F < b.toNat) : parseClasses b = none := by
  have upper : ∀ b : Byte, 0x0F < b.toNat → b &&& 0xF0 ≠ 0x00 := by decide +kernel
  refine if_neg fun ⟨h0, hb⟩ => ?_
  rcases h with h | h
  · exact h0 h
  · exact upper b h hb

theorem parseGroup_of_six_lt {b : Byte} (h : 6 < b.toNat) : parseGroup b = none := by
  have : ∀ b : Byte, 6 < b.toNat → parseGroup b = none := by decide +kernel
  exact this b h

theorem parsePort_of_four_lt {b : Byte} (h : 4 < b.toNat) : parsePort b = none := by
  have : ∀ b : Byte, 4 < b.toNat → parsePort b = none := by decide +kernel
  exact this b h

section OutOfRange

variable {a b : Byte} (s : State)

theorem runTrunk_outOfRange (h : 3 < a.toNat ∨ 2 < b.toNat) : runTrunk [a, b] s = (s, .failed .outOfRange) := by
  rcases h with h | h
  · simp only [runTrunk, parseTrunk_of_three_lt h]
  · simp only [runTrunk, parseMode_of_two_lt h]
    cases parseTrunk a <;> rfl

theorem runPin_outOfRange {t cap pass profile : Byte} (h : isStationNumber (numOfBytes a b) = false ∨ 3 < t.toNat ∨
    (cap ≠ 0 ∧ (cap.toNat < 4 ∨ 128 < cap.toNat)) ∨ 1 < pass.toNat) :
    runPin [a, b, t, cap, pass, profile] s = (s, .failed .outOfRange) := by
  by_cases hn : isStationNumber (numOfBytes a b) = true
  · rcases h with h | h | ⟨h0, h⟩ | h
    · rw [hn] at h
      cases h
    · simp only [runPin, hn, if_true, parseTrunk_of_three_lt h]
    · simp only [runPin, hn, if_true, parseCap_outOfRange h0 h]
      cases parseTrunk t <;> rfl
    · simp only [runPin, hn, if_true, parseFlag_of_one_lt h]
      cases parseTrunk t <;> cases parseCap cap <;> rfl
  · simp only [runPin, hn]
    rfl

theorem runGroup_outOfRange {m : Byte} (h : isGroupNumber (numOfBytes a b) = false ∨ m = 0 ∨ 0x1F < m.toNat) :
    runGroup [a, b, m] s = (s, .failed .outOfRange) := by
  by_cases hn : isGroupNumber (numOfBytes a b) = true
  · rcases h with h | h
    · rw [hn] at h
      cases h
    · simp only [runGroup, hn, if_true, parseMembers_outOfRange h]
  · simp only [runGroup, hn]
    rfl

theorem runWalk_outOfRange {n k : Byte} (h : n = 0 ∨ 8 < n.toNat ∨ k = 0 ∨ 7 < k.toNat) :
    runWalk [a, b, n, k] s = (s, .failed .outOfRange) := by
  have count (h : ¬(1 ≤ n.toNat ∧ n.toNat ≤ 8)) : runWalk [a, b, n, k] s = (s, .failed .outOfRange) := by
    simp only [runWalk, h, if_false]
    cases parseFilter k <;> rfl
  rcases h with rfl | h | h
  · exact count (by decide)
  · exact count (by omega)
  · simp only [runWalk, parseFilter_outOfRange h]

theorem runStats_outOfRange (h : 6 < a.toNat ∨ 1 < b.toNat) : runStats [a, b] s = (s, .failed .outOfRange) := by
  rcases h with h | h
  · simp only [runStats, parseGroup_of_six_lt h]
  · simp only [runStats, parseFlag_of_one_lt h]
    cases parseGroup a <;> rfl

theorem runFlush_outOfRange (h : 4 < a.toNat ∨ b = 0 ∨ 0x0F < b.toNat) : runFlush [a, b] s = (s, .failed .outOfRange) := by
  rcases h with h | h
  · simp only [runFlush, parsePort_of_four_lt h]
  · simp only [runFlush, parseClasses_outOfRange h]
    cases parsePort a <;> rfl

theorem runRestart_outOfRange (h : 1 < a.toNat) : runRestart [a] s = (s, .failed .outOfRange) := by
  simp only [runRestart, parseFlag_of_one_lt h]

end OutOfRange

/-- Settles O11: each run with an operand that its code does not read, carried through the request's end. -/
theorem outOfRangeFails : Obligations.OutOfRangeFails := by
  intro seq a b s fails
  exact ⟨fun h ht => request_failed_same (e := .outOfRange) ht (runTrunk_outOfRange _ h),
    fun t cap pass profile h ht => request_failed_same (e := .outOfRange) ht (runPin_outOfRange _ h),
    fun m h ht => request_failed_same (e := .outOfRange) ht (runGroup_outOfRange _ h),
    fun n k h ht => request_failed_same (e := .outOfRange) ht (runWalk_outOfRange _ h),
    fun h ht => request_failed_same (e := .outOfRange) ht (runStats_outOfRange _ h),
    fun h ht => request_failed_same (e := .outOfRange) ht (runFlush_outOfRange _ h),
    fun h ht => request_failed_same (e := .outOfRange) ht (runRestart_outOfRange _ h)⟩

end Sys2Proof.Machine
end


section
/-!
PROOFS. SET and GET (09 R167 to R170): the table of parameters row by row, the value written and read, the failures.
-/

namespace Sys2Proof.Machine

/-! ### Four-byte values -/

theorem natOfBytes_four (a b c d : Byte) :
    natOfBytes [a, b, c, d] = ((a.toNat * 256 + b.toNat) * 256 + c.toNat) * 256 + d.toNat := by
  simp [natOfBytes]

/-- Four bytes are those of the value that they spell. -/
theorem bytes32_natOfBytes (a b c d : Byte) : bytes32 (BitVec.ofNat 32 (natOfBytes [a, b, c, d])) = [a, b, c, d] := by
  have ha := a.isLt
  have hb := b.isLt
  have hc := c.isLt
  have hd := d.isLt
  rw [natOfBytes_four]
  unfold bytes32
  congr 1
  · apply BitVec.eq_of_toNat_eq
    simp only [BitVec.extractLsb'_toNat, BitVec.toNat_ofNat, Nat.shiftRight_eq_div_pow]
    omega
  congr 1
  · apply BitVec.eq_of_toNat_eq
    simp only [BitVec.extractLsb'_toNat, BitVec.toNat_ofNat, Nat.shiftRight_eq_div_pow]
    omega
  congr 1
  · apply BitVec.eq_of_toNat_eq
    simp only [BitVec.extractLsb'_toNat, BitVec.toNat_ofNat, Nat.shiftRight_eq_div_pow]
    omega
  congr 1
  · apply BitVec.eq_of_toNat_eq
    simp only [BitVec.extractLsb'_toNat, BitVec.toNat_ofNat, Nat.shiftRight_eq_div_pow]
    omega

/-! ### The names of the table (09 R167) -/

theorem parseTrunk_byteOf (t : TrunkId) : parseTrunk (byteOf t.val) = some t := parseTrunk_eq_some.mpr rfl

theorem paramRef_trunk {id : Byte} {p : TrunkParam} (h : trunkParamOf id = some p) (t : TrunkId) :
    paramRef id (byteOf t.val) = some (.trunk t p) := by
  simp only [paramRef, h, parseTrunk_byteOf]

theorem paramRef_global {id : Byte} {p : GlobalParam} (h : trunkParamOf id = none) (hg : globalParamOf id = some p) :
    paramRef id 0xFF = some (.global p) := by
  simp only [paramRef, h, hg, if_true]

theorem trunkParamOf_range : ∀ id : Byte, trunkParamOf id ≠ none → 0x01 ≤ id.toNat ∧ id.toNat ≤ 0x0F := by decide +kernel

theorem trunkParamOf_shared : ∀ id : Byte, (trunkParamOf id = some .queueLimit → id = 0x0E) ∧ (trunkParamOf id = some .portCap → id = 0x0F) := by
  decide +kernel

theorem globalParamOf_range : ∀ id : Byte, globalParamOf id ≠ none → 0x20 ≤ id.toNat ∧ id.toNat ≤ 0x2B := by decide +kernel

theorem parseNoticeKind_range : ∀ b : Byte, parseNoticeKind b ≠ none → 0x01 ≤ b.toNat ∧ b.toNat ≤ 0x09 := by decide +kernel

/-- No other id or scope names a parameter. -/
theorem paramRef_range {id scope : Byte} (h : paramRef id scope ≠ none) :
    (0x01 ≤ id.toNat ∧ id.toNat ≤ 0x0F ∧ scope.toNat ≤ 0x03) ∨ ((id = 0x0E ∨ id = 0x0F) ∧ scope = 0x04) ∨
      (0x20 ≤ id.toNat ∧ id.toNat ≤ 0x2B ∧ scope = 0xFF) ∨ (id = 0x2C ∧ 0x01 ≤ scope.toNat ∧ scope.toNat ≤ 0x09) := by
  unfold paramRef at h
  split at h
  · next p hp =>
    obtain ⟨lo, hi⟩ := trunkParamOf_range id (by simp [hp])
    obtain ⟨queue, port⟩ := trunkParamOf_shared id
    split at h
    · next t ht =>
      have low : scope.toNat < 4 := by
        unfold parseTrunk at ht
        split at ht
        · assumption
        · cases ht
      exact .inl ⟨lo, hi, by omega⟩
    · split at h
      · next hs =>
        split at h
        · next e => exact .inr (.inl ⟨.inl (queue (e ▸ hp)), hs⟩)
        · split at h
          · next e => exact .inr (.inl ⟨.inr (port (e ▸ hp)), hs⟩)
          · exact absurd rfl h
      · exact absurd rfl h
  · split at h
    · next p hp =>
      obtain ⟨lo, hi⟩ := globalParamOf_range id (by simp [hp])
      split at h
      · next hs => exact .inr (.inr (.inl ⟨lo, hi, hs⟩))
      · exact absurd rfl h
    · split at h
      · next hid =>
        obtain ⟨lo, hi⟩ := parseNoticeKind_range scope fun hn => h (by rw [hn]; rfl)
        exact .inr (.inr (.inr ⟨hid, lo, hi⟩))
      · exact absurd rfl h

theorem inRange_bitRate (t : TrunkId) (v : Nat) : (ParamRef.trunk t .bitRate).inRange v = true ↔
    v = 19200 ∨ v = 57600 ∨ v = 115200 ∨ v = 250000 ∨ v = 500000 ∨ v = 1000000 := by
  simp [ParamRef.inRange, TrunkParam.inRange]

theorem inRange_lifetime (c : Cls) (v : Nat) : (ParamRef.global (.lifetime c)).inRange v = true ↔
    v = 0 ∨ (10 ≤ v ∧ v ≤ 60000) := by
  simp [ParamRef.inRange, GlobalParam.inRange, within]

/-! ### Obstacles and wakes -/

theorem setObstacle_eq_none (s : State) (r : ParamRef) (v : Nat) : s.setObstacle r v = none ↔
    ¬(r = .notice .started ∧ v = 0) ∧ ∀ t, r = .trunk t .bitRate → (s.trunk t).mode = .closed := by
  cases r with
  | trunk t p =>
    cases p
    case bitRate => simp [State.setObstacle]
    all_goals simp [State.setObstacle]
  | notice k =>
    cases k
    case started => simp [State.setObstacle]
    all_goals simp [State.setObstacle]
  | _ => simp [State.setObstacle]

theorem setWake_other {s : State} {r : ParamRef} (hl : ∀ t, r ≠ .trunk t .learn) (hc : ∀ t, r ≠ .trunk t .callSpacing)
    (hs : r ≠ .global .stationCap) : setWake r s = s := by
  unfold setWake
  split
  · next t => exact absurd rfl (hl t)
  · next t => exact absurd rfl (hc t)
  · exact absurd rfl hs
  · rfl

/-! ### The runs -/

section Runs

variable {id scope v3 v2 v1 v0 : Byte} {s : State} {r : ParamRef}

theorem runSet_written (hp : paramRef id scope = some r) (hr : r.inRange (natOfBytes [v3, v2, v1, v0]) = true)
    (ho : s.setObstacle r (natOfBytes [v3, v2, v1, v0]) = none) : runSet [id, scope, v3, v2, v1, v0] s =
      (setWake r (s.setParams (s.params.write (natOfBytes [v3, v2, v1, v0]) r)), .done [id, scope, v3, v2, v1, v0]) := by
  simp only [runSet, hp, hr, if_true, ho, paramBody, bytes32_natOfBytes]

theorem runSet_badParam (hp : paramRef id scope = none) : runSet [id, scope, v3, v2, v1, v0] s = (s, .failed .badParam) := by
  simp only [runSet, hp]

theorem runSet_outOfRange (hp : paramRef id scope = some r) (hr : r.inRange (natOfBytes [v3, v2, v1, v0]) = false) :
    runSet [id, scope, v3, v2, v1, v0] s = (s, .failed .outOfRange) := by
  simp only [runSet, hp, hr, Bool.false_eq_true, if_false]

theorem runSet_obstacle {e : Failure} (hp : paramRef id scope = some r) (hr : r.inRange (natOfBytes [v3, v2, v1, v0]) = true)
    (ho : s.setObstacle r (natOfBytes [v3, v2, v1, v0]) = some e) :
    runSet [id, scope, v3, v2, v1, v0] s = (s, .failed e) := by
  simp only [runSet, hp, hr, if_true, ho]

end Runs

theorem setWake_restart (r : ParamRef) (s : State) : (setWake r s).link.restart = s.link.restart :=
  (setWake_services s r).restart

/-- Settles O13: the runs of a SET carried through the request's end; the table by its codes, one parameter at a time. -/
theorem setWritesOrFails : Obligations.SetWritesOrFails := by
  unfold Obligations.SetWritesOrFails
  intro names between
  refine ⟨fun seq id scope v3 v2 v1 v0 s r v ht hp hv hr ho => ?_, ?_, ⟨?_, ?_, ?_, ?_, ?_, ?_, ?_, ?_⟩,
    fun s r v => ⟨setObstacle_eq_none s r v, fun t h => ?_, ?_, setWake_other⟩⟩
  · rw [← natOfBytes_four] at hv
    subst hv
    have ⟨_, _, _, _, running⟩ := ht
    refine ⟨s.params.write (natOfBytes [v3, v2, v1, v0]) r, by rw [Params.read_write, if_pos rfl],
      fun q hq => by rw [Params.read_write, if_neg hq], ?_⟩
    exact request_done ht (runSet_written (s := countIn s) hp hr ho) ((setWake_restart _ _).trans running)
  · intro seq id scope v3 v2 v1 v0 s v ht hv fails
    rw [← natOfBytes_four] at hv
    subst hv
    refine ⟨fun hn => request_failed_same (e := .badParam) ht (runSet_badParam hn), fun r hp => ⟨fun hr => ?_, fun hr h0 => ?_, fun t hr hin hm => ?_⟩⟩
    · exact request_failed_same (e := .outOfRange) ht (runSet_outOfRange hp hr)
    · subst hr
      refine request_failed_same (e := .conflict) ht (runSet_obstacle hp ?_ ?_)
      · rw [h0]; rfl
      · exact if_pos h0
    · subst hr
      exact request_failed_same (e := .state) ht (runSet_obstacle hp hin (if_neg hm))
  · exact fun t => ⟨paramRef_trunk rfl t, inRange_bitRate t⟩
  · intro t x hx
    simp only [List.mem_cons, List.not_mem_nil, or_false] at hx
    rcases hx with rfl | rfl | rfl | rfl | rfl | rfl | rfl | rfl | rfl | rfl | rfl | rfl | rfl | rfl <;>
      exact ⟨paramRef_trunk rfl t, fun v => by simp [between, ParamRef.inRange, TrunkParam.inRange, within]⟩
  · exact ⟨rfl, within_iff _ _⟩
  · exact ⟨rfl, within_iff _ _⟩
  · intro x hx
    simp only [List.mem_cons, List.not_mem_nil, or_false] at hx
    rcases hx with rfl | rfl | rfl | rfl | rfl | rfl | rfl | rfl <;>
      exact ⟨paramRef_global rfl rfl, fun v => by simp [between, ParamRef.inRange, GlobalParam.inRange, within]⟩
  · intro x hx
    simp only [List.mem_cons, List.not_mem_nil, or_false] at hx
    rcases hx with rfl | rfl | rfl | rfl <;> exact ⟨paramRef_global rfl rfl, inRange_lifetime _⟩
  · intro x hx
    simp only [List.mem_cons, List.not_mem_nil, or_false] at hx
    rcases hx with rfl | rfl | rfl | rfl | rfl | rfl | rfl | rfl | rfl <;>
      exact ⟨rfl, fun v => by simp [between, ParamRef.inRange, within]⟩
  · exact fun _ _ => paramRef_range
  · rcases h with rfl | rfl <;> rfl
  · rintro rfl
    rfl

/-- Settles O14: the runs of a GET, and the reading of each parameter, by definition. -/
theorem getReadsValue : Obligations.GetReadsValue := by
  refine ⟨fun seq id scope s ht => ⟨fun r hr => ?_, fun hn => ?_⟩, fun p => ⟨fun t k hk => ?_, rfl, rfl, rfl, rfl, rfl, rfl, rfl, rfl,
    fun _ => rfl, rfl, rfl, fun _ => rfl⟩⟩
  · exact request_done_same ht (show runGet [id, scope] (countIn s) = _ by simp only [runGet, hr]; rfl)
  · exact request_failed_same (e := .badParam) ht (show runGet [id, scope] (countIn s) = _ by simp only [runGet, hn])
  · subst hk
    exact ⟨rfl, rfl, rfl, rfl, rfl, rfl, rfl, rfl, fun _ => rfl, rfl, rfl, rfl⟩

end Sys2Proof.Machine
end


section
/-!
PROOFS. TRUNK (05 R105 to R107, 09 R171): what each change of mode comes to, and what it keeps.
-/

namespace Sys2Proof.Machine

/-! ### The changes -/

section Changes

variable {s : State} {t : TrunkId} {m : Mode}

theorem changeMode_same (h : (s.trunk t).mode = m) : changeMode t m s = (s, 0) := by
  cases m <;> simp only [changeMode, h]

theorem changeMode_close (h : (s.trunk t).mode ≠ .closed) : changeMode t .closed s = closeTrunk t s := by
  cases hm : (s.trunk t).mode with
  | closed => exact absurd hm h
  | survey | carry => simp only [changeMode, hm]

theorem changeMode_carryToSurvey (h : (s.trunk t).mode = .carry) : changeMode t .survey s = carryToSurvey t s := by
  simp only [changeMode, h]

theorem changeMode_surveyToCarry (h : (s.trunk t).mode = .survey) : changeMode t .carry s = surveyToCarry t s := by
  simp only [changeMode, h]

theorem changeMode_open (h : (s.trunk t).mode = .closed) (hm : m ≠ .closed) : changeMode t m s = openTrunk t m s := by
  cases m with
  | closed => exact absurd rfl hm
  | survey | carry => simp only [changeMode, h]

theorem runTrunk_done {a b : Byte} (ha : parseTrunk a = some t) (hb : parseMode b = some m) :
    runTrunk [a, b] s = ((changeMode t m s).1, .done [a, b, byteOf (changeMode t m s).2]) := by
  simp only [runTrunk, ha, hb]

/-- An abandonment that flushes leaves the egress to the flush. -/
theorem abandon_entries (t : TrunkId) (s : State) : (abandon t true s).entries (.trunk t) = s.entries (.trunk t) := by
  refine entries_congr fun c => (fifo_modTrunk (s := giveBackTxn t s) (f := Trunk.abandoned) rfl _ c).trans ?_
  exact fifo_of_trunks (giveBack_trunks _ _) (giveBack_hostEgress _ _) _ c

/-- A trunk's record rewritten but for its line. -/
structure Kept (t : TrunkId) (s u : State) : Prop where
  line : (u.trunk t).line = (s.trunk t).line
  params : u.params = s.params
  clock : u.clock = s.clock
  restart : u.link.restart = s.link.restart

theorem Kept.trans {s u v : State} (h : Kept t s u) (h' : Kept t u v) : Kept t s v :=
  ⟨h'.line.trans h.line, h'.params.trans h.params, h'.clock.trans h.clock, h'.restart.trans h.restart⟩

theorem Services.toKept {s u : State} (h : Services s u) : Kept t s u := ⟨h.line t, h.params, h.clock, h.restart⟩

/-- A write to the trunk's record that leaves the line. -/
theorem Kept.modTrunk {s u : State} {f : Trunk → Trunk} (h : Kept t s u) (hf : ∀ k, (f k).line = k.line) :
    Kept t s (u.modTrunk t f) :=
  ⟨by rw [State.modTrunk_trunk_self, hf, h.line], h.params, h.clock, h.restart⟩

theorem Kept.refl (t : TrunkId) (s : State) : Kept t s s := ⟨rfl, rfl, rfl, rfl⟩

theorem fifo_rewritten {s : State} {f : Trunk → Trunk} {e : Port} {q : List QEntry} {c : Cls} (h : s.fifo e c = q)
    (hf : ∀ k, (f k).egress.fifo = k.egress.fifo) : (s.modTrunk t f).fifo e c = q :=
  (fifo_modTrunk s (hf _) e c).trans h

theorem abandonedEmptied_services (t : TrunkId) (s : State) : Services s (emptyEgress t (abandon t true s)).1 :=
  (abandon_services s t true).trans (emptyEgress_services _ t)

theorem closeTrunk_kept (t : TrunkId) (s : State) : Kept t s (closeTrunk t s).1 := by
  dsimp only [closeTrunk]
  exact ((abandonedEmptied_services t s).trans (closingEffects_services _ t)).toKept.modTrunk fun _ => by rfl

theorem closeTrunk_fifo (t : TrunkId) (s : State) (c : Cls) : (closeTrunk t s).1.fifo (.trunk t) c = [] := by
  dsimp only [closeTrunk]
  refine fifo_rewritten (s := closingEffects t (emptyEgress t (abandon t true s)).1) ?_ fun _ => by rfl
  exact (fifo_of_trunks (closingEffects_trunks _ _) (closingEffects_hostEgress _) _ c).trans (emptyEgress_fifo _ _ _)

theorem closeTrunk_count (t : TrunkId) (s : State) : (closeTrunk t s).2 = s.entries (.trunk t) := abandon_entries t s

theorem quietIfSound_sound (h : (s.trunk t).line = .sound) : quietIfSound t s = s.modTrunk t fun k =>
    { k with activity := .quiet, timer := some (s.clock + ((s.tparams t).replyTimeout + (s.tparams t).settleGap)) } :=
  (if_pos h).trans (goQuiet_eq s t)

theorem quietIfSound_faulted (h : (s.trunk t).line = .faulted) : quietIfSound t s = s := if_neg (by simp [h])

theorem quietIfSound_fifo (t : TrunkId) (s : State) (e : Port) (c : Cls) : (quietIfSound t s).fifo e c = s.fifo e c := by
  cases h : (s.trunk t).line with
  | sound =>
    rw [quietIfSound_sound h]
    exact fifo_rewritten rfl fun _ => by rfl
  | faulted => rw [quietIfSound_faulted h]

theorem carryToSurvey_quiet (h : (s.trunk t).activity = .quiet) : carryToSurvey t s =
    ((emptyEgress t s).1.modTrunk t fun k => { k with mode := .survey }, (emptyEgress t s).2) := if_pos h

theorem carryToSurvey_busy (h : (s.trunk t).activity ≠ .quiet) : carryToSurvey t s =
    (quietIfSound t ((emptyEgress t (abandon t true s)).1.modTrunk t fun k => { k with mode := .survey }),
      (emptyEgress t (abandon t true s)).2) := if_neg h

theorem carryToSurvey_facts (t : TrunkId) (s : State) : Kept t s (carryToSurvey t s).1 ∧
    ((carryToSurvey t s).1.trunk t).mode = .survey ∧ (∀ c, (carryToSurvey t s).1.fifo (.trunk t) c = []) ∧
    (carryToSurvey t s).2 = s.entries (.trunk t) := by
  by_cases h : (s.trunk t).activity = .quiet
  · rw [carryToSurvey_quiet h]
    dsimp only
    refine ⟨(emptyEgress_services s t).toKept.modTrunk fun _ => by rfl, by rw [State.modTrunk_trunk_self], fun c => ?_, rfl⟩
    exact fifo_rewritten (emptyEgress_fifo t s c) fun _ => by rfl
  · rw [carryToSurvey_busy h]
    refine ⟨((abandonedEmptied_services t s).toKept.modTrunk fun _ => by rfl).trans (quietIfSound_services _ t).toKept,
      ((quietIfSound_services _ t).mode t).trans (by rw [State.modTrunk_trunk_self]), fun c => ?_, abandon_entries t s⟩
    refine (quietIfSound_fifo _ _ _ _).trans ?_
    exact fifo_rewritten (emptyEgress_fifo t (abandon t true s) c) fun _ => by rfl

theorem surveyToCarry_quiet (h : (s.trunk t).activity = .quiet) :
    surveyToCarry t s = (s.modTrunk t fun k => { k with mode := .carry }, 0) := if_pos h

theorem surveyToCarry_busy (h : (s.trunk t).activity ≠ .quiet) : surveyToCarry t s =
    (quietIfSound t ((abandon t false s).modTrunk t fun k => { k with mode := .carry }), 0) := if_neg h

theorem surveyToCarry_facts (t : TrunkId) (s : State) : Kept t s (surveyToCarry t s).1 ∧
    ((surveyToCarry t s).1.trunk t).mode = .carry ∧ (surveyToCarry t s).2 = 0 := by
  by_cases h : (s.trunk t).activity = .quiet
  · rw [surveyToCarry_quiet h]
    dsimp only
    exact ⟨(Kept.refl t s).modTrunk fun _ => by rfl, by rw [State.modTrunk_trunk_self], rfl⟩
  · rw [surveyToCarry_busy h]
    exact ⟨((abandon_services s t false).toKept.modTrunk fun _ => by rfl).trans (quietIfSound_services _ t).toKept,
      ((quietIfSound_services _ t).mode t).trans (by rw [State.modTrunk_trunk_self]), rfl⟩

theorem openTrunk_facts (t : TrunkId) (m : Mode) (s : State) : Kept t s (openTrunk t m s).1 ∧
    ((openTrunk t m s).1.trunk t).mode = m ∧ (openTrunk t m s).2 = 0 :=
  ⟨((Kept.refl t s).modTrunk fun _ => by rfl).trans (workDecision_services _ t).toKept,
    ((workDecision_services _ t).mode t).trans (by rw [State.modTrunk_trunk_self]), rfl⟩

/-- Whether a change of mode empties the egress (05 R105, R106). -/
def emptiesEgress (old new : Mode) : Bool := (old ≠ .closed && new = .closed) || (old = .carry && new = .survey)

/-- What every change of mode keeps and sets. -/
theorem changeMode_facts (t : TrunkId) (m : Mode) (s : State) : Kept t s (changeMode t m s).1 ∧
    ((changeMode t m s).1.trunk t).mode = m ∧
    (changeMode t m s).2 = (if emptiesEgress (s.trunk t).mode m then s.entries (.trunk t) else 0) ∧
    (emptiesEgress (s.trunk t).mode m = true → ∀ c, (changeMode t m s).1.fifo (.trunk t) c = []) := by
  have opened (hm : m ≠ .closed) (h : (s.trunk t).mode = .closed) : Kept t s (changeMode t m s).1 ∧
      ((changeMode t m s).1.trunk t).mode = m ∧
      (changeMode t m s).2 = (if emptiesEgress (s.trunk t).mode m then s.entries (.trunk t) else 0) ∧
      (emptiesEgress (s.trunk t).mode m = true → ∀ c, (changeMode t m s).1.fifo (.trunk t) c = []) := by
    obtain ⟨kept, mode, count⟩ := openTrunk_facts t m s
    rw [changeMode_open h hm, h]
    have none : emptiesEgress .closed m = false := by simp [emptiesEgress]
    exact ⟨kept, mode, by rw [count, none]; rfl, fun e => by rw [none] at e; cases e⟩
  by_cases same : (s.trunk t).mode = m
  · have none : emptiesEgress m m = false := by cases m <;> rfl
    rw [changeMode_same same, same, none]
    exact ⟨Kept.refl t s, rfl, rfl, fun h => by cases h⟩
  · cases m with
    | closed =>
      have empties : emptiesEgress (s.trunk t).mode .closed = true := by simp [emptiesEgress, same]
      rw [changeMode_close same, empties]
      exact ⟨closeTrunk_kept t s, by rw [closeTrunk, State.modTrunk_trunk_self], closeTrunk_count t s, fun _ => closeTrunk_fifo t s⟩
    | survey =>
      cases h : (s.trunk t).mode with
      | closed => exact h ▸ opened (by decide) h
      | survey => exact absurd h same
      | carry =>
        obtain ⟨kept, mode, fifo, count⟩ := carryToSurvey_facts t s
        rw [changeMode_carryToSurvey h]
        exact ⟨kept, mode, count, fun _ => fifo⟩
    | carry =>
      cases h : (s.trunk t).mode with
      | closed => exact h ▸ opened (by decide) h
      | carry => exact absurd h same
      | survey =>
        obtain ⟨kept, mode, count⟩ := surveyToCarry_facts t s
        rw [changeMode_surveyToCarry h]
        exact ⟨kept, mode, count, fun e => by cases e⟩

end Changes

/-! ### The work decision of an opened trunk -/

section Opened

variable {u : State} {t : TrunkId}

theorem workDecision_idle (h : u.mayDecide t = false) : workDecision t u = u := if_neg (by simp [h])

/-- A call that is due at the head of a cycle comes first (05 R92). -/
theorem workDecision_call (h : u.mayDecide t = true) (hb : (u.trunk t).burst = none) (hp : (u.trunk t).pointer = none)
    (hc : (u.trunk t).callMade = false) (hd : u.callIsDue t = true) : workDecision t u = beginCall t u := by
  have once : decideOnce t u = (beginCall t u, false) := by
    simp only [decideOnce, State.burstOpen, hb, Bool.false_eq_true, if_false, decideCycle, hp, hc, hd, and_self, if_true]
  simp only [workDecision, h, if_true, decideWithin, once]

end Opened

/-- Settles O15: the codes; each change of mode carried through the request's end; the flush and the closing effects by their laws. -/
theorem trunkSetsMode : Obligations.TrunkSetsMode := by
  refine ⟨⟨fun b t => parseTrunk_eq_some, rfl, rfl, rfl⟩, fun seq a b s t m ht ha hb => ?_, fun seq a b s t m ht ha hb hm => ?_,
    fun t s => ⟨rfl, emptyEgress_flushed t, fun n k hk => ?_⟩, fun t s hd => ?_⟩
  · intro empties
    obtain ⟨kept, mode, count, fifo⟩ := changeMode_facts t m (countIn s)
    obtain ⟨-, -, -, -, running⟩ := id ht
    refine ⟨(changeMode t m (countIn s)).1, ?_, mode, kept.line, kept.params, kept.clock, fifo, fun hc h0 => ?_, fun h => ?_⟩
    · have run := request_done (drop := id) ht (runTrunk_done ha hb) (kept.restart.trans running)
      rw [count] at run
      exact run
    · subst hc
      rw [changeMode_close (s := countIn s) h0, closeTrunk]
      simp only [State.modTrunk_trunk_self, and_self]
    · rw [changeMode_same (s := countIn s) h.symm]
  · intro done turned quieted flushed
    obtain ⟨kept, -, -, -⟩ := changeMode_facts t m (countIn s)
    obtain ⟨-, -, -, -, running⟩ := id ht
    have run {n : Nat} {u : State} (h : changeMode t m (countIn s) = (u, n)) : done n u := by
      have := request_done (drop := id) ht (runTrunk_done ha hb) (kept.restart.trans running)
      rw [h] at this
      exact this
    have timed (u : State) (hc : u.clock = s.clock) (hp : u.params = s.params) : quieted u = u.modTrunk t fun k =>
        { k with activity := .quiet, timer := some (u.clock + ((u.tparams t).replyTimeout + (u.tparams t).settleGap)) } := by
      rw [hc, State.tparams, hp]
      rfl
    refine ⟨fun hc => run ?_, fun h0 hc => ⟨fun hq => run ?_, fun hq hl => run ?_, fun hq hl => run ?_⟩,
      fun h0 hc => ⟨fun hq => run ?_, fun hq hl => run ?_, fun hq hl => run ?_⟩, fun h0 u hu => ?_⟩
    · subst hc
      rw [changeMode_close (s := countIn s) (Ne.symm hm), closeTrunk]
      exact Prod.ext rfl (abandon_entries t _)
    · subst hc
      rw [changeMode_carryToSurvey (s := countIn s) h0, carryToSurvey_quiet (s := countIn s) hq]
      rfl
    · subst hc
      have before := abandonedEmptied_services t (countIn s)
      rw [changeMode_carryToSurvey (s := countIn s) h0, carryToSurvey_busy (s := countIn s) hq, quietIfSound_sound]
      · refine Prod.ext (timed (turned _) (by exact before.clock) (by exact before.params)).symm (abandon_entries t _)
      · rw [State.modTrunk_trunk_self]
        exact (before.line t).trans hl
    · subst hc
      rw [changeMode_carryToSurvey (s := countIn s) h0, carryToSurvey_busy (s := countIn s) hq, quietIfSound_faulted]
      · exact Prod.ext rfl (abandon_entries t _)
      · rw [State.modTrunk_trunk_self]
        exact ((abandonedEmptied_services t (countIn s)).line t).trans hl
    · subst hc
      rw [changeMode_surveyToCarry (s := countIn s) h0, surveyToCarry_quiet (s := countIn s) hq]
    · subst hc
      have before := abandon_services (countIn s) t false
      rw [changeMode_surveyToCarry (s := countIn s) h0, surveyToCarry_busy (s := countIn s) hq, quietIfSound_sound]
      · refine Prod.ext (timed (turned (abandon t false (countIn s))) before.clock before.params).symm rfl
      · rw [State.modTrunk_trunk_self]
        exact (before.line t).trans hl
    · subst hc
      rw [changeMode_surveyToCarry (s := countIn s) h0, surveyToCarry_busy (s := countIn s) hq, quietIfSound_faulted]
      rw [State.modTrunk_trunk_self]
      exact ((abandon_services (countIn s) t false).line t).trans hl
    · have opened : done 0 (workDecision t u) := by
        refine run ?_
        rw [changeMode_open (s := countIn s) h0 (fun h => hm (h.trans h0.symm)), hu]
        rfl
      have own : u.trunk t = { (s.trunk t) with
          mode := m, activity := .idle, pointer := none, cycle := 0, lastCall := none, callMade := false, burst := none
          bitRate := (s.tparams t).bitRate } := by
        rw [hu, State.modTrunk_trunk_self]
        rfl
      refine ⟨opened, fun hx hl => ?_, fun hx hl h1 => ?_⟩
      · rwa [workDecision_idle] at opened
        simp [State.mayDecide, Trunk.listening, own, hl]
      · have params : u.tparams t = s.tparams t := by rw [hu]; rfl
        have restart : u.link.restart = none := by rw [hu]; exact running
        have open' : m ≠ .closed := h0 ▸ hm
        have may : u.mayDecide t = true := by simp [State.mayDecide, Trunk.listening, own, hl, hx, restart, open']
        have due : u.callIsDue t = true := by simp [State.callIsDue, params, own, h1]
        rwa [workDecision_call may (by rw [own]) (by rw [own]) (by rw [own]) due] at opened
  · rw [emptyEgress_ticket, hk]
    rfl
  · obtain ⟨entry, link⟩ := closingEffects_spec t hd.1
    refine ⟨fun n => ?_, link, closingEffects_store t, closingEffects_trunks t s, closingEffects_hostEgress t,
      (closingEffects_services s t).params⟩
    rw [entry n]
    cases he : s.entry n with
    | none => rfl
    | some e =>
      obtain ⟨num, body⟩ := e
      obtain rfl : num = n := entry_num he
      rfl

end Sys2Proof.Machine
end


section
/-!
PROOFS. PIN, FORGET and WALK (02 R32 to R35, R38; 09 R172, R174, R177): the codes, the edits of a station's entry, the listing.
-/

namespace Sys2Proof.Machine

section Edits

variable {s u : State} {seq hi lo : Byte} {n : Num} {st : Station}

/-! ### PIN -/

theorem parseCap_eq_some (b : Byte) (c : Option Nat) : parseCap b = some c ↔
    (b = 0 ∧ c = none) ∨ (4 ≤ b.toNat ∧ b.toNat ≤ 128 ∧ c = some b.toNat) := by
  unfold parseCap
  by_cases h0 : b = 0
  · subst h0
    simp [eq_comm]
  · rw [if_neg h0]
    by_cases h : 4 ≤ b.toNat ∧ b.toNat ≤ 128
    · rw [if_pos h]
      simp only [Option.some.injEq, h0, false_and, false_or, h, true_and, eq_comm]
    · rw [if_neg h]
      simp only [h0, false_and, false_or, ← and_assoc, h]
      simp

section Pin

variable {a cb pb profile : Byte} {home : TrunkId} {cap : Option Nat} {pass : Bool}

theorem runPin_eq_editAnswer (hn : isStationNumber (numOfBytes hi lo) = true) (ha : parseTrunk a = some home)
    (hc : parseCap cb = some cap) (hp : parseFlag pb = some pass) :
    runPin [hi, lo, a, cb, pb, profile] s = editAnswer hi lo (pinEntry (numOfBytes hi lo) home cap pass profile s) := by
  simp only [runPin, hn, if_true, ha, hc, hp]

theorem pinEntry_full_new (h : s.station n = none) (full : 192 ≤ s.dir.length ∨ 64 ≤ s.placedCount) :
    pinEntry n home cap pass profile s = (s, .error .full) := by
  simp only [pinEntry, h]
  exact if_pos ((noRoom_iff s).mpr full)

theorem pinEntry_created (h : s.station n = none) (hd : s.dir.length < 192) (hp : s.placedCount < 64) :
    pinEntry n home cap pass profile s = (wake home (putStation n (pinnedStation home cap pass profile) s), .ok .created) := by
  simp only [pinEntry, h]
  exact if_neg fun full => by have := (noRoom_iff s).mp full; omega

theorem pinEntry_full_known {old : Option TrunkId} {seen : Bool} {due : Option Cause} (h : s.station n = some st)
    (hk : st.kind = .dynamic old seen due) (full : 64 ≤ s.placedCount) :
    pinEntry n home cap pass profile s = (s, .error .full) := by
  simp only [pinEntry, h, hk]
  exact if_pos ((placesFull_iff s).mpr full)

theorem pinEntry_converted {old : Option TrunkId} {seen : Bool} {due : Option Cause} (h : s.station n = some st)
    (hk : st.kind = .dynamic old seen due) (hp : s.placedCount < 64) :
    pinEntry n home cap pass profile s = (wake home (wakeHome old (putStation n
      { st.rehomed home (.pinned home cap pass) profile with state := .active, missed := 0 } s)), .ok .converted) := by
  simp only [pinEntry, h, hk]
  exact if_neg fun full => by have := (placesFull_iff s).mp full; omega

theorem pinEntry_repinned {old : TrunkId} {ocap : Option Nat} {opass : Bool} (h : s.station n = some st)
    (hk : st.kind = .pinned old ocap opass) : pinEntry n home cap pass profile s =
      (wake home (wake old (putStation n (st.rehomed home (.pinned home cap pass) profile) s)), .ok .repinned) := by
  simp only [pinEntry, h, hk]

theorem rehomed_same (h : st.home = some home) (k : StationKind) :
    st.rehomed home k profile = { st with kind := k, profile := profile } := if_pos h

theorem rehomed_other (h : st.home ≠ some home) (k : StationKind) : st.rehomed home k profile =
    { st with
      kind := k, profile := profile, state := .active, missed := 0, inMark := none, outMark := false, resync := true } := if_neg h

end Pin

/-- Settles O16: the outcomes of `pinEntry` on the counted state, each carried through the request's end. -/
theorem pinEdits : Obligations.PinEdits := by
  refine ⟨⟨parseCap_eq_some, rfl, rfl⟩, fun seq hi lo a cb pb profile s home cap pass ht hn ha hc hp => ?_⟩
  intro n done full
  obtain ⟨-, -, -, -, running⟩ := id ht
  have refused (h : pinEntry n home cap pass profile (countIn s) = (countIn s, .error .full)) : full :=
    request_failed_same (e := .full) ht (by rw [runPin_eq_editAnswer hn ha hc hp, h]; rfl)
  have edited {r : EditResult} {u : State} (h : pinEntry n home cap pass profile (countIn s) = (u, .ok r))
      (hr : u.link.restart = none) : done r.code u :=
    request_done ht (by rw [runPin_eq_editAnswer hn ha hc hp, h]; rfl) hr
  refine ⟨fun h => ⟨fun hf => ?_, fun hd hl => ?_⟩, fun st old seen due h hk => ⟨fun hf => ?_, fun hl ho => ?_, fun hl ho => ?_⟩,
    fun st old ocap opass h hk => ⟨fun ho => ?_, fun ho => ?_⟩⟩
  · exact refused (pinEntry_full_new h hf)
  · exact edited (r := .created) (pinEntry_created h hd hl) (by rw [wake_link]; exact running)
  · exact refused (pinEntry_full_known h hk hf)
  · have home' : st.home = some home := by rw [Station.home, hk, ho]; rfl
    have := edited (r := .converted) (pinEntry_converted h hk hl) (by rw [wake_link, wakeHome_link]; exact running)
    rwa [rehomed_same home'] at this
  · have home' : st.home ≠ some home := by rw [Station.home, hk]; exact ho
    have := edited (r := .converted) (pinEntry_converted h hk hl) (by rw [wake_link, wakeHome_link]; exact running)
    rwa [rehomed_other home'] at this
  · have home' : st.home = some home := by rw [Station.home, hk, ho]; rfl
    have := edited (r := .repinned) (pinEntry_repinned h hk) (by rw [wake_link, wake_link]; exact running)
    rwa [rehomed_same home'] at this
  · have home' : st.home ≠ some home := by
      rw [Station.home, hk]
      exact fun h => ho (Option.some.inj h)
    have := edited (r := .repinned) (pinEntry_repinned h hk) (by rw [wake_link, wake_link]; exact running)
    rwa [rehomed_other home'] at this

/-! ### FORGET -/

theorem forgetEntry_none (h : s.entry n = none) : forgetEntry n s = (s, .error .notFound) := by
  simp only [forgetEntry, h]

theorem forgetEntry_group {m : Members} (h : s.entry n = some ⟨n, .group m⟩) : forgetEntry n s = (dropEntry n s, .ok .removed) := by
  simp only [forgetEntry, h]

theorem forgetEntry_removed (h : s.entry n = some ⟨n, .station st⟩) (h0 : st.held = 0) : forgetEntry n s =
    (wakeHome st.home (raise (.gone n .forgotten) (dropEntry n s)), .ok .removed) := by
  simp only [forgetEntry, h, h0, if_true]
  rfl

theorem forgetEntry_deferred (h : s.entry n = some ⟨n, .station st⟩) (h0 : st.held ≠ 0) : forgetEntry n s =
    (wakeHome st.home (putStation n { st with kind := .dynamic none false (some .forgotten) } s), .ok .deferred) := by
  simp only [forgetEntry, h, h0, if_false]

/-- Settles O18: the outcomes of `forgetEntry` on the counted state, each carried through the request's end. -/
theorem forgetEdits : Obligations.ForgetEdits := by
  intro seq hi lo s ht n done
  obtain ⟨-, -, -, -, running⟩ := id ht
  have edited {r : EditResult} {u : State} (h : forgetEntry n (countIn s) = (u, .ok r)) (hr : u.link.restart = none) :
      done r.code u :=
    request_done ht (by rw [runForget, h]; rfl) hr
  refine ⟨fun h => ?_, fun m h => ?_, fun st h h0 => ?_, fun st h h0 => ?_⟩
  · exact request_failed_same (e := .notFound) ht (by rw [runForget, forgetEntry_none (s := countIn s) h]; rfl)
  · exact edited (r := .removed) (forgetEntry_group h) running
  · have gone := raise_services (dropEntry n (countIn s)) (.gone n .forgotten)
    exact edited (r := .removed) (forgetEntry_removed h h0) (by rw [wakeHome_link]; exact gone.restart.trans running)
  · exact edited (r := .deferred) (forgetEntry_deferred h h0) (by rw [wakeHome_link]; exact running)

end Edits

/-! ### WALK -/

/-- The byte that three bits of a kind filter spell. -/
def filterByte (dynamic pinned group : Bool) : Byte :=
  (if dynamic then 1 else 0) + (if pinned then 2 else 0) + (if group then 4 else 0)

theorem eq_filterByte_of_bits : ∀ b : Byte, b &&& 0xF8 = 0x00 → b = filterByte (b.getLsbD 0) (b.getLsbD 1) (b.getLsbD 2) := by
  decide +kernel

theorem bits_filterByte : ∀ b0 b1 b2 : Bool, let b := filterByte b0 b1 b2
    b &&& 0xF8 = 0x00 ∧ b.getLsbD 0 = b0 ∧ b.getLsbD 1 = b1 ∧ b.getLsbD 2 = b2 := by
  decide

/-- A byte is read as a filter exactly when it is not zero and is the byte of that filter's bits. -/
theorem parseFilter_eq_some (b : Byte) (f : KindFilter) :
    parseFilter b = some f ↔ b ≠ 0 ∧ b = filterByte f.dynamic f.pinned f.group := by
  constructor
  · intro h
    simp only [parseFilter, Option.ite_none_right_eq_some, Option.some.injEq] at h
    obtain ⟨⟨hb, upper⟩, rfl⟩ := h
    exact ⟨hb, eq_filterByte_of_bits b upper⟩
  · obtain ⟨dynamic, pinned, group⟩ := f
    rintro ⟨hb, rfl⟩
    obtain ⟨upper, h0, h1, h2⟩ := bits_filterByte dynamic pinned group
    rw [parseFilter, if_pos ⟨hb, upper⟩, h0, h1, h2]

/-- Settles O20: the filter's code, and the run of a WALK with a count in range and out of it. -/
theorem walkAnswers : Obligations.WalkAnswers := by
  refine ⟨parseFilter_eq_some, fun seq hi lo n k s f ht hf => ?_⟩
  intro es
  refine ⟨fun h1 h8 => request_done_same ht ?_, fun h => request_failed_same (e := .outOfRange) ht (runWalk_outOfRange _ ?_)⟩
  · simp only [runWalk, hf, if_pos (And.intro h1 h8), walkBody, List.length_take]
    rfl
  · rcases h with h | h
    · exact .inl (BitVec.eq_of_toNat_eq h)
    · exact .inr (.inl h)

end Sys2Proof.Machine
end


section
/-!
PROOFS. STATS, FLUSH and the header of a SEND (07 R142, 08 R153, 09 R178 to R181): a group's counters read and cleared; what a flush
removes of an egress; the reservation asked at the header.
-/

namespace Sys2Proof.Machine

/-! ### STATS -/

section Stats

variable {s : State}

theorem parseGroup_byteOf (t : TrunkId) : parseGroup (byteOf t.val) = some (.trunk t) := by
  simp only [parseGroup, parseTrunk_byteOf]

theorem runStats_done {a b : Byte} {g : Group} {clear : Bool} (ha : parseGroup a = some g) (hb : parseFlag b = some clear) :
    runStats [a, b] s = (if clear then clearGroup g s else s, .done (s.statsBody a b g)) := by
  simp only [runStats, ha, hb]

/-- Another group keeps its counters. -/
theorem groupCounters_clearGroup {g h : Group} (hne : h ≠ g) : (clearGroup g s).groupCounters h = s.groupCounters h := by
  cases g with
  | trunk t =>
    cases h with
    | trunk u =>
      have other : u ≠ t := fun e => hne (e ▸ rfl)
      simp only [State.groupCounters, clearGroup, countTrunk, State.modTrunk_trunk, if_neg other]
    | host | store | directory => rfl
  | host =>
    cases h with
    | host => exact absurd rfl hne
    | trunk u => rfl
    | store | directory => rfl
  | store =>
    cases h with
    | store => exact absurd rfl hne
    | trunk u => rfl
    | host | directory => rfl
  | directory =>
    cases h with
    | directory => exact absurd rfl hne
    | trunk u => rfl
    | host | store => rfl

end Stats

/-- Settles O23: the lists of counters by definition; a STATS that clears and one that does not carried through the request's end. -/
theorem statsAnswers : Obligations.StatsAnswers := by
  refine ⟨⟨parseGroup_byteOf, rfl, rfl, rfl⟩, fun s => ⟨fun t c hc => ?_, fun c hc => ?_, ⟨rfl, rfl⟩, rfl, rfl⟩,
    fun seq a b s g ht hg => ?_⟩
  · subst hc
    exact ⟨rfl, rfl⟩
  · subst hc
    exact ⟨rfl, rfl⟩
  · intro body
    obtain ⟨-, -, -, -, running⟩ := id ht
    refine ⟨fun hb => ?_, fun hb => ?_, ?_, fun h hne => groupCounters_clearGroup hne⟩
    · subst hb
      exact request_done_same ht (runStats_done (clear := false) hg rfl)
    · subst hb
      exact request_done ht (runStats_done (clear := true) hg rfl) ((clearGroup_services _ g).restart.trans running)
    · cases g with
      | trunk t =>
        simp only [State.groupCounters, clearGroup, countTrunk, State.modTrunk_trunk_self]
        rfl
      | host | store | directory => rfl

/-! ### FLUSH -/

section Flush

variable {s v : State} {e : Port} {c : Cls}

/-- What a flush leaves of a class: its head where that is in flight, marked. -/
def State.flushKept (s : State) (e : Port) (c : Cls) : List QEntry :=
  if s.inFlight e = some c then ((s.fifo e c).take 1).map fun q => { q with flushMark := true } else []

/-- What a flush removes of a class. -/
def State.flushGone (s : State) (e : Port) (c : Cls) : List QEntry :=
  if s.inFlight e = some c then (s.fifo e c).tail else s.fifo e c

/-- A class flushed in `v` as it stands in `s`. -/
def flushedClass (s : State) (e : Port) (v : State) (c : Cls) : State :=
  (s.flushGone e c).foldl (fun w q => flushOne e q w) (setFifo e c (s.flushKept e c) v)

theorem flushClass_empty (h : v.fifo e c = []) : flushClass e c v = (v, 0) := by
  simp only [flushClass, h]

theorem flushClass_flushed (hf : v.fifo e c = s.fifo e c) (hi : v.inFlight e = s.inFlight e) (h : s.fifo e c ≠ []) :
    flushClass e c v = (flushedClass s e v c, (s.fifo e c).length) := by
  obtain ⟨q, qs, hq⟩ := List.exists_cons_of_ne_nil h
  simp only [flushClass, hf, hi, hq, flushedClass, State.flushGone, State.flushKept]
  split <;> rfl

/-! What one removal changes. -/

theorem flushOne_fifo (q : QEntry) (s : State) (e f : Port) (c : Cls) : (flushOne e q s).fifo f c = s.fifo f c := by
  cases e with
  | trunk t => exact flushedEntry_fifo _ _ _ _ _
  | host => exact fifo_of_trunks (dropRef_trunks _ _) (dropRef_hostEgress _ _) f c

theorem flushOne_ticket (e : Port) (s : State) (q : QEntry) (n : Nat) :
    (flushOne e q s).ticket n = (s.ticket n).bind (Ticket.dropped (namedIn n [q])) := by
  cases e with
  | trunk t => exact flushedEntry_ticket t q n
  | host => exact dropRef_ticket_named q n

theorem flushedEntry_trunk (t : TrunkId) (q : QEntry) (s : State) : (flushedEntry t q s).trunk t =
    { s.trunk t with counters := { (s.trunk t).counters with flushed := countUp (s.trunk t).counters.flushed } } := by
  unfold flushedEntry
  rw [trunk_of_trunks (dropRef_trunks _ _), trunk_of_trunks (resyncAfter_trunks _ _ _), countTrunk, State.modTrunk_trunk_self]

theorem inFlight_host {s s' : State} (h : s'.link.sending = s.link.sending) : s'.inFlight .host = s.inFlight .host := by
  have tx : s'.link.tx = s.link.tx := congrArg Prod.fst h
  simp only [State.inFlight, tx]

theorem flushOne_inFlight (q : QEntry) (s : State) (e : Port) : (flushOne e q s).inFlight e = s.inFlight e := by
  cases e with
  | trunk t =>
    have trunk := flushedEntry_trunk t q s
    simp only [flushOne, State.inFlight, trunk]
  | host => exact inFlight_host (dropRef_sending _)

theorem setFifo_inFlight (e : Port) (c : Cls) (l : List QEntry) (s : State) : (setFifo e c l s).inFlight e = s.inFlight e := by
  cases e with
  | trunk t => simp only [setFifo, State.inFlight, State.modTrunk_trunk_self]
  | host => rfl

theorem foldl_flushOne_fifo (l : List QEntry) (s : State) (e f : Port) (c : Cls) :
    (l.foldl (fun w q => flushOne e q w) s).fifo f c = s.fifo f c := by
  induction l generalizing s with
  | nil => rfl
  | cons q qs ih => rw [List.foldl_cons, ih, flushOne_fifo]

theorem foldl_flushOne_inFlight (l : List QEntry) (s : State) (e : Port) :
    (l.foldl (fun w q => flushOne e q w) s).inFlight e = s.inFlight e := by
  induction l generalizing s with
  | nil => rfl
  | cons q qs ih => rw [List.foldl_cons, ih, flushOne_inFlight]

/-! What one class flushed changes. -/

theorem flushedClass_fifo (s v : State) (e f : Port) (c k : Cls) :
    (flushedClass s e v c).fifo f k = if f = e ∧ k = c then s.flushKept e c else v.fifo f k := by
  rw [flushedClass, foldl_flushOne_fifo, fifo_setFifo]

theorem flushedClass_inFlight (s v : State) (e : Port) (c : Cls) : (flushedClass s e v c).inFlight e = v.inFlight e := by
  rw [flushedClass, foldl_flushOne_inFlight, setFifo_inFlight]

theorem flushedClass_ticket (s v : State) (e : Port) (c : Cls) (n : Nat) :
    (flushedClass s e v c).ticket n = (v.ticket n).bind (Ticket.dropped (namedIn n (s.flushGone e c))) := by
  rw [flushedClass, foldl_ticket (fun s q n => flushOne_ticket e s q n), ticket_congr (setFifo_store _ _ _)]

theorem flushedClass_flushed (s v : State) (t : TrunkId) (c : Cls) : ((flushedClass s (.trunk t) v c).trunk t).counters.flushed =
    countUpBy (v.trunk t).counters.flushed (s.flushGone (.trunk t) c).length := by
  unfold flushedClass
  exact (foldl_flushedEntry_flushed t _).trans (by rw [setFifo_counters])

/-! What several classes flushed change, each class once. -/

theorem foldl_flushedClass_fifo (s v : State) (e f : Port) (cs : List Cls) (k : Cls) :
    (cs.foldl (flushedClass s e) v).fifo f k = if f = e ∧ k ∈ cs then s.flushKept e k else v.fifo f k := by
  induction cs generalizing v with
  | nil => simp
  | cons c cs ih =>
    rw [List.foldl_cons, ih, flushedClass_fifo]
    by_cases hf : f = e
    · by_cases hk : k = c
      · simp [hf, hk]
      · simp [hf, hk]
    · simp [hf]

theorem foldl_flushedClass_ticket (s v : State) (e : Port) (cs : List Cls) (n : Nat) : (cs.foldl (flushedClass s e) v).ticket n =
    (v.ticket n).bind (Ticket.dropped (cs.map fun c => namedIn n (s.flushGone e c)).sum) := by
  induction cs generalizing v with
  | nil => exact (bind_dropped_zero _).symm
  | cons c cs ih => rw [List.foldl_cons, ih, flushedClass_ticket, bind_dropped, List.map_cons, List.sum_cons]

theorem foldl_flushedClass_flushed (s v : State) (t : TrunkId) (cs : List Cls) :
    ((cs.foldl (flushedClass s (.trunk t)) v).trunk t).counters.flushed =
      countUpBy (v.trunk t).counters.flushed (cs.map fun c => (s.flushGone (.trunk t) c).length).sum := by
  induction cs generalizing v with
  | nil => rfl
  | cons c cs ih => rw [List.foldl_cons, ih, flushedClass_flushed, ← countUpBy_add, List.map_cons, List.sum_cons]

/-- A flush treats each class that holds an entry as it stood at the start. -/
theorem flushClasses_eq {cs : List Cls} (once : cs.Nodup) (hf : ∀ c ∈ cs, v.fifo e c = s.fifo e c)
    (hi : v.inFlight e = s.inFlight e) : flushClasses e cs v =
      ((cs.filter fun c => s.fifo e c ≠ []).foldl (flushedClass s e) v, (cs.map fun c => (s.fifo e c).length).sum) := by
  suffices counted : ∀ n, cs.foldl (fun acc c => ((flushClass e c acc.1).1, acc.2 + (flushClass e c acc.1).2)) (v, n) =
      ((cs.filter fun c => s.fifo e c ≠ []).foldl (flushedClass s e) v, n + (cs.map fun c => (s.fifo e c).length).sum) by
    exact (counted 0).trans (by rw [Nat.zero_add])
  induction cs generalizing v with
  | nil => exact fun n => rfl
  | cons c cs ih =>
    intro n
    obtain ⟨fresh, once⟩ := List.nodup_cons.mp once
    have head := hf c List.mem_cons_self
    have tail := fun k hk => hf k (List.mem_cons_of_mem c hk)
    rw [List.foldl_cons, List.map_cons, List.sum_cons, ← Nat.add_assoc]
    by_cases h : s.fifo e c = []
    · rw [List.filter_cons_of_neg (by simpa using h), h, flushClass_empty (head.trans h)]
      exact ih once tail hi _
    · rw [List.filter_cons_of_pos (by simpa using h), flushClass_flushed head hi h, List.foldl_cons]
      refine ih once (fun k hk => ?_) ((flushedClass_inFlight s v e c).trans hi) _
      rw [flushedClass_fifo, if_neg fun ⟨_, hc⟩ => fresh (hc ▸ hk)]
      exact tail k hk

/-- The classes left out add nothing. -/
theorem sum_map_filter (p : Cls → Bool) (f : Cls → Nat) (cs : List Cls) :
    ((cs.filter p).map f).sum = (cs.map fun c => if p c then f c else 0).sum := by
  induction cs with
  | nil => rfl
  | cons c cs ih =>
    rw [List.map_cons, List.sum_cons, ← ih]
    cases hp : p c with
    | false => rw [List.filter_cons_of_neg (by simp [hp])]; simp
    | true => rw [List.filter_cons_of_pos hp, List.map_cons, List.sum_cons, if_pos rfl]

/-- Nor do classes without an entry. -/
theorem sum_map_filter_nonempty (p : Cls → Bool) (f : Cls → Nat) (h : ∀ c, ¬s.fifo e c ≠ [] → f c = 0) (cs : List Cls) :
    (((cs.filter p).filter fun c => s.fifo e c ≠ []).map f).sum = (cs.map fun c => if p c then f c else 0).sum := by
  rw [List.filter_filter, sum_map_filter]
  congr 1
  refine List.map_congr_left fun c _ => ?_
  by_cases hq : s.fifo e c ≠ []
  · simp [hq]
  · simp [h c hq]

theorem flushGone_of_empty (h : ¬s.fifo e c ≠ []) : s.flushGone e c = [] := by
  rw [not_not] at h
  rw [State.flushGone, h]
  split <;> rfl

end Flush

/-- The byte that four bits of a class set spell. -/
def classByte (b0 b1 b2 b3 : Bool) : Byte := (if b0 then 1 else 0) + (if b1 then 2 else 0) + (if b2 then 4 else 0) + (if b3 then 8 else 0)

theorem eq_classByte_of_bits : ∀ b : Byte, b &&& 0xF0 = 0x00 →
    b = classByte (b.getLsbD 0) (b.getLsbD 1) (b.getLsbD 2) (b.getLsbD 3) := by
  decide +kernel

theorem bits_classByte : ∀ b0 b1 b2 b3 : Bool, let b := classByte b0 b1 b2 b3
    b &&& 0xF0 = 0x00 ∧ b.getLsbD 0 = b0 ∧ b.getLsbD 1 = b1 ∧ b.getLsbD 2 = b2 ∧ b.getLsbD 3 = b3 := by
  decide

/-- A byte is read as a class set exactly when it is not zero and is the byte of that set's bits. -/
theorem parseClasses_eq_some (b : Byte) (c : Quad Bool) : parseClasses b = some c ↔ b ≠ 0 ∧ b = classByte c.a0 c.a1 c.a2 c.a3 := by
  constructor
  · intro h
    simp only [parseClasses, Option.ite_none_right_eq_some, Option.some.injEq] at h
    obtain ⟨⟨hb, upper⟩, rfl⟩ := h
    exact ⟨hb, eq_classByte_of_bits b upper⟩
  · obtain ⟨b0, b1, b2, b3⟩ := c
    rintro ⟨hb, rfl⟩
    obtain ⟨upper, h0, h1, h2, h3⟩ := bits_classByte b0 b1 b2 b3
    rw [parseClasses, if_pos ⟨hb, upper⟩, h0, h1, h2, h3]

theorem parsePort_byteOf (t : TrunkId) : parsePort (byteOf t.val) = some (.trunk t) := by
  simp only [parsePort, parseTrunk_byteOf]

theorem mem_classes (c : Cls) : c ∈ ([3, 2, 1, 0] : List Cls) := by
  match c with
  | 0 | 1 | 2 | 3 => decide

/-! ### What is in flight -/

theorem inFlight_trunk_iff (s : State) (t : TrunkId) (c : Cls) : s.inFlight (.trunk t) = some c ↔ ∃ x, (s.trunk t).txn = some x ∧
    (((s.trunk t).activity = .delivering ∧ ∃ d n a, x.kind = .deliver d c n a) ∨
      ((s.trunk t).activity = .spreading ∧ ∃ n, x.kind = .bcast c n)) := by
  simp only [State.inFlight]
  generalize (s.trunk t).activity = a
  generalize (s.trunk t).txn = o
  cases o with
  | none => cases a <;> simp
  | some x =>
    obtain ⟨k, p, b, h, f⟩ := x
    cases a with
    | delivering | spreading => cases k <;> simp
    | _ => simp

theorem inFlight_host_iff (s : State) (c : Cls) : s.inFlight .host = some c ↔ ∃ m, s.link.tx = .telegram m (some c) := by
  unfold State.inFlight
  cases h : s.link.tx <;> simp

/-! ### The effects of a flushed entry -/

section Entry

variable {s : State} {t : TrunkId} {q : QEntry}

theorem resyncAfter_started {k : Ticket} {b : TicketBody} (hf : q.form = some .deliver) (hs : q.started = true)
    (hk : s.stored q.ticket = some (k, b)) : resyncAfter t q s = setResync t b.dest s := by
  simp only [resyncAfter, hf, hs, hk, and_self, if_true]

theorem resyncAfter_other (h : q.form ≠ some .deliver ∨ q.started = false ∨ s.stored q.ticket = none) : resyncAfter t q s = s := by
  unfold resyncAfter
  split
  · next started =>
    obtain ⟨hf, hs⟩ := started
    split
    · next hk =>
      rcases h with h | h | h
      · exact absurd hf h
      · rw [h] at hs
        cases hs
      · rw [h] at hk
        cases hk
    · rfl
  · rfl

theorem setResync_home {n : Num} {st : Station} (h : s.station n = some st) (hh : st.home = some t) :
    setResync t n s = putStation n { st with resync := true } s := by
  simp only [setResync, h, hh, if_true]

theorem setResync_other {n : Num} (h : ∀ st, s.station n = some st → st.home ≠ some t) : setResync t n s = s := by
  unfold setResync
  split
  · rfl
  · next st hst => exact if_neg (h st hst)

end Entry

/-! ### The request -/

theorem runFlush_done {s : State} {a b : Byte} {e : Port} {set : Quad Bool} (ha : parsePort a = some e)
    (hb : parseClasses b = some set) : runFlush [a, b] s =
      ((flushClasses e (classList set) s).1, .done [a, byteOf (flushClasses e (classList set) s).2]) := by
  simp only [runFlush, ha, hb]

/-- Settles O24: a flush class by class as each stood at the start; one removal by definition; what is in flight by the activity. -/
theorem flushRemoves : Obligations.FlushRemoves := by
  refine ⟨⟨parsePort_byteOf, rfl, parseClasses_eq_some⟩, fun seq a b s e set ht ha hb => ?_, fun t q s => ?_, fun t n s => ?_,
    fun s c => ⟨fun t => inFlight_trunk_iff s t c, inFlight_host_iff s c⟩⟩
  · intro kept gone removes u sum
    obtain ⟨-, -, -, -, running⟩ := id ht
    have classes : u = ((classList set).filter fun c => s.fifo e c ≠ []).foldl (flushedClass s e) (countIn s) := by
      rw [classList, List.filter_filter]
      change (([3, 2, 1, 0] : List Cls).filter fun c => set.get c && s.fifo e c ≠ []).foldl (flushedClass s e) (countIn s) = _
      simp only [Bool.and_comm]
    have once : (classList set).Nodup := List.Nodup.filter _ (by decide)
    have flushed : flushClasses e (classList set) (countIn s) = (u, ((classList set).map fun c => (s.fifo e c).length).sum) := by
      rw [classes]
      exact flushClasses_eq once (fun _ _ => rfl) rfl
    have services := flushClasses_services (countIn s) e (classList set)
    rw [flushed] at services
    have fifo (f : Port) (c : Cls) : u.fifo f c =
        if f = e ∧ set.get c = true ∧ s.fifo e c ≠ [] then s.flushKept e c else s.fifo f c := by
      rw [classes, foldl_flushedClass_fifo]
      simp only [classList, List.mem_filter, mem_classes, true_and, decide_eq_true_eq]
      rfl
    refine ⟨?_, fun c hc hn => ?_, fun c q qs hc hi hq => ?_, fun c hc => ?_, fun f c hf => ?_, services.params, services.clock,
      fun t he => ?_, fun n k hk => ?_⟩
    · have run := request_done (drop := id) ht (runFlush_done ha hb) (by rw [flushed]; exact services.restart.trans running)
      rw [flushed, classList, sum_map_filter] at run
      exact run
    · rw [fifo]
      by_cases h : s.fifo e c = []
      · simp [h]
      · rw [if_pos ⟨rfl, hc, h⟩, State.flushKept, if_neg hn]
    · rw [fifo, if_pos ⟨rfl, hc, by rw [hq]; simp⟩, State.flushKept, if_pos hi, hq]
      rfl
    · rw [fifo, if_neg fun h => by rw [hc] at h; simp at h]
    · rw [fifo, if_neg fun h => hf h.1]
    · subst he
      rw [classes, foldl_flushedClass_flushed, classList,
        sum_map_filter_nonempty _ _ fun c hc => by rw [flushGone_of_empty hc, List.length_nil]]
      rfl
    · have dropped : u.ticket n = (s.ticket n).bind (Ticket.dropped (sum fun c => namedIn n (gone c))) := by
        rw [classes, foldl_flushedClass_ticket, classList,
          sum_map_filter_nonempty _ _ fun c hc => by rw [flushGone_of_empty hc]; rfl]
        rfl
      rw [dropped, hk]
      rfl
  · intro f
    have stored : f.stored q.ticket = s.stored q.ticket := rfl
    refine ⟨fun k b hf hs hk => ?_, fun h => ?_⟩
    · exact congrArg (dropRef q.ticket) (resyncAfter_started hf hs (stored.trans hk))
    · exact congrArg (dropRef q.ticket) (resyncAfter_other (stored ▸ h))
  · exact ⟨fun st h hh => setResync_home h hh, setResync_other⟩

/-! ### The header of a SEND -/

theorem sendLength_iff (n : Nat) : sendLength n = true ↔ 3 ≤ n ∧ n ≤ 243 := within_iff _ _ _

theorem sendHeader_judged {s : State} {length : BitVec 16} (hx : s.link.rx = .hunting) (h2 : 2 ≤ length.toNat)
    (h258 : length.toNat ≤ 258) : sendHeader length s =
      if sendLength (length.toNat - 2) && s.link.restart.isNone then finish (reserveSend (length.toNat - 2) s)
      else s.modLink fun l => { l with rx := .collecting (length.toNat - 2) none } := by
  have fits : within 2 258 length.toNat = true := (within_iff _ _ _).mpr ⟨h2, h258⟩
  simp only [sendHeader, hx, fits, if_true]

/-- Settles O21: the two outcomes of a header in its range. -/
theorem sendHeaderReserves : Obligations.SendHeaderReserves := by
  intro length s hr hx h2 h258
  have run : exec (.sendHeader length) s = .next (sendHeader length s) := whileRunning_running hr _
  rw [run, sendHeader_judged hx h2 h258]
  refine ⟨fun h5 h245 hn => ?_, fun h => ?_⟩
  · have fits : sendLength (length.toNat - 2) = true := (sendLength_iff _).mpr (by omega)
    have three : length.toNat - 2 - 3 = length.toNat - 5 := by omega
    rw [fits, hn, Option.isNone_none, Bool.and_self, if_pos rfl, reserveSend, three]
  · rw [if_neg]
    rw [Bool.and_eq_true, sendLength_iff, Option.isNone_iff_eq_none]
    rintro ⟨fits, hn⟩
    rcases h with h | h | h
    · omega
    · omega
    · exact h hn

end Sys2Proof.Machine
end


section
/-!
PROOFS. RESTART at its taking (02 R40, 03 R59, 05 R110, 07 R146, 08 R163, R164, 09 R182): what becomes of each block.
-/

namespace Sys2Proof.Machine

/-! ### The trunks -/

section Trunks

variable (s : State) (t : TrunkId)

/-- What the taking leaves of a trunk's record but for the quiet period. -/
def restartedIdle : Trunk :=
  { (s.trunk t).abandoned with
    pointer := none
    cycle := 0
    lastCall := none
    callMade := false
    egress := .empty
    counters := { (s.trunk t).counters with flushed := countUpBy (s.trunk t).counters.flushed (s.entries (.trunk t)) } }

/-- What the taking leaves of a trunk's record. -/
def restartedTrunk : Trunk :=
  if (s.trunk t).listening then
    { restartedIdle s t with
      activity := .quiet, timer := some (s.clock + ((s.tparams t).replyTimeout + (s.tparams t).settleGap)) }
  else restartedIdle s t

theorem restartTrunk_eq : restartTrunk t s = s.modTrunk t fun _ => restartedTrunk s t := by
  have idle : (s.modTrunk t fun _ => restartedIdle s t).trunk t = restartedIdle s t := State.modTrunk_trunk_self s t _
  have listens : (restartedIdle s t).listening = (s.trunk t).listening := rfl
  change (if ((s.modTrunk t fun _ => restartedIdle s t).trunk t).listening then goQuiet t (s.modTrunk t fun _ => restartedIdle s t)
    else s.modTrunk t fun _ => restartedIdle s t) = _
  rw [idle, listens, restartedTrunk]
  split
  · rw [goQuiet_eq, State.modTrunk_modTrunk]
    rfl
  · rfl

variable {s t}

theorem restartedTrunk_congr {v : State} (trunk : v.trunk t = s.trunk t) (params : v.params = s.params) (clock : v.clock = s.clock) :
    restartedTrunk v t = restartedTrunk s t := by
  have entries : v.entries (.trunk t) = s.entries (.trunk t) := entries_congr fun c => by simp only [State.fifo, trunk]
  simp only [restartedTrunk, restartedIdle, trunk, entries, clock, State.tparams, params]

variable (s t)

theorem restartTrunk_own : (restartTrunk t s).trunk t = restartedTrunk s t := by
  rw [restartTrunk_eq, State.modTrunk_trunk_self]

theorem restartTrunk_other {u : TrunkId} (h : u ≠ t) : (restartTrunk t s).trunk u = s.trunk u := by
  rw [restartTrunk_eq, State.modTrunk_trunk, if_neg h]

theorem restartTrunk_params : (restartTrunk t s).params = s.params := by
  rw [restartTrunk_eq]
  rfl

theorem restartTrunk_clock : (restartTrunk t s).clock = s.clock := by
  rw [restartTrunk_eq]
  rfl

theorem restartTrunk_link : (restartTrunk t s).link = s.link := by
  rw [restartTrunk_eq]
  rfl

theorem restartTrunk_dirCounters : (restartTrunk t s).dirCounters = s.dirCounters := by
  rw [restartTrunk_eq]
  rfl

/-- Each trunk's record is that of its own treatment. -/
theorem restartedTrunks_trunk : (restartedTrunks s).trunk t = restartedTrunk s t := by
  match t with
  | 0 =>
    rw [restartedTrunks, restartTrunk_other _ _ (by decide), restartTrunk_other _ _ (by decide), restartTrunk_other _ _ (by decide),
      restartTrunk_own]
    exact restartedTrunk_congr rfl rfl rfl
  | 1 =>
    rw [restartedTrunks, restartTrunk_other _ _ (by decide), restartTrunk_other _ _ (by decide), restartTrunk_own]
    refine restartedTrunk_congr ?_ ?_ ?_
    · rw [restartTrunk_other _ _ (by decide)]; rfl
    · rw [restartTrunk_params]; rfl
    · rw [restartTrunk_clock]; rfl
  | 2 =>
    rw [restartedTrunks, restartTrunk_other _ _ (by decide), restartTrunk_own]
    refine restartedTrunk_congr ?_ ?_ ?_
    · rw [restartTrunk_other _ _ (by decide), restartTrunk_other _ _ (by decide)]; rfl
    · rw [restartTrunk_params, restartTrunk_params]; rfl
    · rw [restartTrunk_clock, restartTrunk_clock]; rfl
  | 3 =>
    rw [restartedTrunks, restartTrunk_own]
    refine restartedTrunk_congr ?_ ?_ ?_
    · rw [restartTrunk_other _ _ (by decide), restartTrunk_other _ _ (by decide), restartTrunk_other _ _ (by decide)]; rfl
    · rw [restartTrunk_params, restartTrunk_params, restartTrunk_params]; rfl
    · rw [restartTrunk_clock, restartTrunk_clock, restartTrunk_clock]; rfl

theorem restartedTrunks_kept : (restartedTrunks s).link = s.link ∧ (restartedTrunks s).clock = s.clock ∧
    (restartedTrunks s).params = s.params ∧ (restartedTrunks s).dirCounters = s.dirCounters := by
  simp only [restartedTrunks, restartTrunk_link, restartTrunk_clock, restartTrunk_params, restartTrunk_dirCounters]
  exact ⟨rfl, rfl, rfl, rfl⟩

theorem restartedTrunk_listening : (restartedTrunk s t).listening = (s.trunk t).listening := by
  unfold restartedTrunk
  split <;> rfl

end Trunks

/-! ### The host link -/

section Taken

variable (s : State)

/-- The trunks whose quiet periods a RESTART waits for. -/
def State.listeners : Quad Bool :=
  ⟨(s.trunk 0).listening, (s.trunk 1).listening, (s.trunk 2).listening, (s.trunk 3).listening⟩

theorem listeners_eq_none_iff : s.listeners = Quad.all false ↔ ∀ t, (s.trunk t).listening = false := by
  unfold State.listeners Quad.all
  rw [Quad.mk.injEq]
  refine ⟨fun ⟨h0, h1, h2, h3⟩ t => ?_, fun h => ⟨h 0, h 1, h 2, h 3⟩⟩
  match t with
  | 0 => exact h0
  | 1 => exact h1
  | 2 => exact h2
  | 3 => exact h3

/-- The host link at the taking. -/
def restartedLink : HostLink :=
  { s.link with
    rx := .hunting
    tx :=
      match s.link.tx with
      | .telegram m _ => .telegram m none
      | .free => .free
      | .reply m => .reply m
      | .notice m => .notice m
    restart := some ⟨s.restartFigures, s.listeners⟩
    credit := 0
    telegramSeq := 0
    pendingNotices := []
    unacked := []
    lost := 0
    noticeTimer := none
    resendDue := .no
    stalled := false }

/-- What the taking leaves of each block. -/
structure Restarted (s u : State) : Prop where
  store : ∃ l : Store, u.store = { l with tickets := [], freeBlocks := 512, occ := ⟨Quad.all 0, 0⟩, low := false }
  hostEgress : u.hostEgress = Quad.all []
  trunk : ∀ t, ∃ c, u.trunk t = { restartedTrunk s t with counters := c }
  dir : u.dir = s.dir.filterMap restartEntry
  aging : u.aging = ⟨s.timebase, s.params.agingPeriod * 1000⟩
  params : u.params = s.params
  clock : u.clock = s.clock

theorem restartLink_link (f : RestartFigures) (v : State) : (restartLink f (restartDirectory v)).link =
    { v.link with
      rx := .hunting
      tx :=
        match v.link.tx with
        | .telegram m _ => .telegram m none
        | .free => .free
        | .reply m => .reply m
        | .notice m => .notice m
      restart := some ⟨f, v.listeners⟩
      credit := 0
      telegramSeq := 0
      pendingNotices := []
      unacked := []
      lost := 0
      noticeTimer := none
      resendDue := .no
      stalled := false } := rfl

theorem restartLink_kept (f : RestartFigures) (v : State) :
    (restartLink f (restartDirectory v)).aging = ⟨v.timebase, v.params.agingPeriod * 1000⟩ ∧
      (restartLink f (restartDirectory v)).params = v.params ∧ (restartLink f (restartDirectory v)).clock = v.clock ∧
      (restartLink f (restartDirectory v)).dirCounters = v.dirCounters := ⟨rfl, rfl, rfl, rfl⟩

theorem restartedTrunks_listeners : (restartedTrunks s).listeners = s.listeners := by
  simp only [State.listeners, restartedTrunks_trunk, restartedTrunk_listening]

/-- The store at the taking. -/
def restartedStore : Store := { s.store with tickets := [], freeBlocks := 512, occ := ⟨Quad.all 0, 0⟩, low := false }

theorem takeRestart_keep : Restarted s (takeRestart false s) ∧ (takeRestart false s).link = restartedLink s ∧
    (∀ t, (takeRestart false s).trunk t = restartedTrunk s t) ∧ (takeRestart false s).dirCounters = s.dirCounters ∧
    (takeRestart false s).store = restartedStore s := by
  have dir := takeRestart_dir s
  rw [takeRestart_eq] at dir ⊢
  obtain ⟨store, egress, trunks, -, -⟩ := restartLink_fields s.restartFigures (restartedTrunks s)
  obtain ⟨aging, params, clock, counters⟩ := restartLink_kept s.restartFigures (restartedTrunks s)
  obtain ⟨link', clock', params', counters'⟩ := restartedTrunks_kept s
  have own (t : TrunkId) := (trunk_of_trunks trunks t).trans (restartedTrunks_trunk s t)
  have stored : _ = restartedStore s := store.trans (restartedTrunks_store s)
  have link := restartLink_link s.restartFigures (restartedTrunks s)
  rw [link', restartedTrunks_listeners] at link
  rw [State.timebase, clock', params'] at aging
  exact ⟨⟨⟨s.store, stored⟩, egress.trans (restartedTrunks_hostEgress s), fun t => ⟨_, own t⟩, dir, aging, params.trans params',
    clock.trans clock'⟩, link, own, counters.trans counters', stored⟩

theorem clearAll_trunk (t : TrunkId) : (clearAll s).trunk t = { s.trunk t with counters := .zero } := by
  simp only [clearAll, clearGroup, countTrunk, State.modTrunk_trunk]
  match t with
  | 0 | 1 | 2 | 3 => rfl

theorem clearAll_store : (clearAll s).store =
    { s.store with
      poolFails := 0, ticketFails := 0, portLimitFails := 0, leastFree := s.store.freeBlocks
      peakTickets := s.store.tickets.length } := rfl

theorem clearAll_kept : (clearAll s).hostEgress = s.hostEgress ∧ (clearAll s).dir = s.dir ∧ (clearAll s).aging = s.aging ∧
    (clearAll s).params = s.params ∧ (clearAll s).clock = s.clock ∧ (clearAll s).dirCounters = .zero ∧
    (clearAll s).link = { s.link with counters := .zero } := by
  simp [clearAll, clearGroup, countTrunk, countLink, countDir]

theorem takeRestart_true : takeRestart true s = clearAll (takeRestart false s) := by
  simp only [takeRestart, if_true, Bool.false_eq_true, if_false]

theorem takeRestart_clear : Restarted s (takeRestart true s) ∧
    (takeRestart true s).link = { restartedLink s with counters := .zero } ∧
    (∀ t, (takeRestart true s).trunk t = { restartedTrunk s t with counters := .zero }) ∧
    (takeRestart true s).dirCounters = .zero ∧ (takeRestart true s).store.list = [0, 0, 0, 512, 0] := by
  obtain ⟨kept, link, trunk, -, store⟩ := takeRestart_keep s
  obtain ⟨egress, dir, aging, params, clock, counters, link'⟩ := clearAll_kept (takeRestart false s)
  rw [takeRestart_true]
  have own (t : TrunkId) : (clearAll (takeRestart false s)).trunk t = { restartedTrunk s t with counters := .zero } := by
    rw [clearAll_trunk, trunk]
  have stored := clearAll_store (takeRestart false s)
  rw [store] at stored
  rw [link] at link'
  exact ⟨⟨⟨(clearAll (takeRestart false s)).store, by rw [stored]; rfl⟩, egress.trans kept.hostEgress, fun t => ⟨_, own t⟩, dir.trans kept.dir, aging.trans kept.aging,
    params.trans kept.params, clock.trans kept.clock⟩, link', own, counters, by rw [stored]; rfl⟩

end Taken

/-! ### The end of the taking -/

section Concluded

variable {s u : State} {r : CacheRecord} {p : RestartProgress}

/-- STARTED cannot be disabled, and an empty queue has room for it. -/
theorem raise_started (reason : StartReason) (hn : u.link.pendingNotices = []) (hl : u.link.lost = 0) :
    raise (.started reason) u = u.modLink fun l =>
      { l with pendingNotices := [⟨l.noticeSeq, 0, .started reason⟩], noticeSeq := l.noticeSeq + 1, lost := 0 } := by
  have on : noticeOn u.params (NoticeFields.started reason).kind = true := rfl
  rw [raise, if_pos on, hn, if_neg (by decide)]
  refine congrArg u.setLink ?_
  simp only [hn, hl, List.nil_append]

/-- A taking with no quiet period to wait for is complete at once (08 R164). -/
theorem checkRestart_complete (hp : u.link.restart = some p) (hw : p.waiting = Quad.all false) (hc : u.link.cache = some r)
    (hn : u.link.pendingNotices = []) (hl : u.link.lost = 0) : ∃ w, checkRestart u = (u.modLink fun l =>
      { l with
        restart := none
        cache := some { r with reply := some (doneReply r.seq p.figures.bytes) }
        replies := l.replies ++ [doneReply r.seq p.figures.bytes]
        pendingNotices := [⟨l.noticeSeq, 0, .started .restart⟩]
        noticeSeq := l.noticeSeq + 1
        lost := 0 }).setWakes w := by
  refine ⟨(checkRestart u).wakes, ?_⟩
  have complete : checkRestart u = wakeAll (raise (.started .restart) (u.modLink fun l =>
      { l with
        restart := none
        cache := some { r with reply := some (doneReply r.seq p.figures.bytes) }
        replies := l.replies ++ [doneReply r.seq p.figures.bytes] })) := by
    simp only [checkRestart, hp, hw, if_true, completeRestart, State.modLink_link, hc, setCache, queueReply, State.modLink_modLink]
  rw [complete, wakeAll_eq, raise_started, State.modLink_modLink]
  · rfl
  · exact hn
  · exact hl

theorem checkRestart_waiting (hp : u.link.restart = some p) (hw : p.waiting ≠ Quad.all false) : checkRestart u = u := by
  simp only [checkRestart, hp, hw, if_false]

/-- The end of a taking: but for the wakes it changes the host link alone. -/
theorem checkRestart_taken {f : RestartFigures} {q : Quad Bool} (hp : u.link.restart = some ⟨f, q⟩) (hn : u.link.pendingNotices = [])
    (hl : u.link.lost = 0) (r : CacheRecord) : ∃ l w, checkRestart (setCache r u) = (u.setLink l).setWakes w ∧
      l = { u.link with
        cache := l.cache, restart := l.restart, replies := l.replies, pendingNotices := l.pendingNotices
        noticeSeq := l.noticeSeq, lost := l.lost } ∧
      (q ≠ Quad.all false → l = { u.link with cache := some r }) ∧
      (q = Quad.all false → l =
        { u.link with
          restart := none
          cache := some { r with reply := some (doneReply r.seq f.bytes) }
          replies := u.link.replies ++ [doneReply r.seq f.bytes]
          pendingNotices := [⟨u.link.noticeSeq, 0, .started .restart⟩]
          noticeSeq := u.link.noticeSeq + 1
          lost := 0 }) := by
  by_cases hq : q = Quad.all false
  · obtain ⟨w, complete⟩ := checkRestart_complete (u := setCache r u) hp hq rfl hn hl
    exact ⟨_, w, complete, rfl, fun h => absurd hq h, fun _ => rfl⟩
  · have waiting : checkRestart (setCache r u) = setCache r u := checkRestart_waiting hp hq
    exact ⟨{ u.link with cache := some r }, u.wakes, by rw [waiting]; rfl, rfl, fun _ => rfl, fun h => absurd h hq⟩

end Concluded

/-- The taking of either flag, by what both leave. -/
theorem takeRestart_restarted (clear : Bool) (s : State) : Restarted s (takeRestart clear s) ∧
    ∃ c, (takeRestart clear s).link = { restartedLink s with counters := c } := by
  cases clear with
  | false =>
    obtain ⟨kept, link, -⟩ := takeRestart_keep s
    exact ⟨kept, s.link.counters, link⟩
  | true =>
    obtain ⟨kept, link, -⟩ := takeRestart_clear s
    exact ⟨kept, .zero, link⟩

/-- The record of a trunk at the taking, whatever its counters. -/
theorem restartedTrunk_record (s : State) (t : TrunkId) :
    (restartedTrunk s t).mode = (s.trunk t).mode ∧ (restartedTrunk s t).line = (s.trunk t).line ∧ (restartedTrunk s t).txn = none ∧
      (restartedTrunk s t).pointer = none ∧ (restartedTrunk s t).cycle = 0 ∧ (restartedTrunk s t).lastCall = none ∧
      (restartedTrunk s t).burst = none ∧ (restartedTrunk s t).callMade = false ∧ (restartedTrunk s t).tx = none ∧
      (restartedTrunk s t).rx = (if (s.trunk t).rx = .answer then .stray else (s.trunk t).rx) ∧
      (restartedTrunk s t).activity = (if (s.trunk t).listening then .quiet else .idle) ∧
      ((s.trunk t).listening = true →
        (restartedTrunk s t).timer = some (s.clock + ((s.tparams t).replyTimeout + (s.tparams t).settleGap))) := by
  unfold restartedTrunk
  split
  · exact ⟨rfl, rfl, rfl, rfl, rfl, rfl, rfl, rfl, rfl, rfl, rfl, fun _ => rfl⟩
  · next h => exact ⟨rfl, rfl, rfl, rfl, rfl, rfl, rfl, rfl, rfl, rfl, rfl, fun h' => absurd h' h⟩

theorem restartedTrunk_egress (s : State) (t : TrunkId) : (restartedTrunk s t).egress = .empty := by
  unfold restartedTrunk
  split <;> rfl

theorem restartedTrunk_counters (s : State) (t : TrunkId) : (restartedTrunk s t).counters =
    { (s.trunk t).counters with flushed := countUpBy (s.trunk t).counters.flushed (s.entries (.trunk t)) } := by
  unfold restartedTrunk
  split <;> rfl

theorem exec_restart {s : State} {seq b : Byte} {clear : Bool} (ht : s.takes 0x1D seq [b]) (hb : parseFlag b = some clear) :
    exec (.restart seq [b]) s = .next (finish (resume (checkRestart
      (setCache ⟨seq, messageCheck 0x1D seq [b], none⟩ (takeRestart clear (countIn s)))))) := by
  have run : runRestart [b] (countIn s) = (takeRestart clear (countIn s), .later) := by simp only [runRestart, hb]
  have taken := request_taken (drop := id) (run := runRestart [b]) ht
  rw [run] at taken
  exact taken

/-- Settles O25: the taking block by block, then its end with a quiet period to wait for or without one. -/
theorem restartTaken : Obligations.RestartTaken := by
  intro seq b s ht hb queued
  obtain ⟨clear, flag⟩ : ∃ clear, parseFlag b = some clear := by
    rcases hb with rfl | rfl
    · exact ⟨false, rfl⟩
    · exact ⟨true, rfl⟩
  obtain ⟨⟨⟨stored, store⟩, hostEgress, trunk, dir, aging, params, clock⟩, c, link⟩ := takeRestart_restarted clear (countIn s)
  have record := restartedTrunk_record (countIn s)
  obtain ⟨l, w, taken, common, waiting, complete⟩ := checkRestart_taken (u := takeRestart clear (countIn s))
    (by rw [link]; rfl) (by rw [link]; rfl) (by rw [link]; rfl) ⟨seq, messageCheck 0x1D seq [b], none⟩
  have hexec := exec_restart ht flag
  rw [taken] at hexec
  rw [link] at common waiting complete
  have unset (h : b = 0x00) : clear = false := by subst h; exact (Option.some.inj flag).symm
  have set (h : b = 0x01) : clear = true := by subst h; exact (Option.some.inj flag).symm
  have keep (h : b = 0x00) := unset h ▸ takeRestart_keep (countIn s)
  have zero (h : b = 0x01) := set h ▸ takeRestart_clear (countIn s)
  have fifo (e : Port) (k : Cls) : (takeRestart clear (countIn s)).fifo e k = [] := by
    cases e with
    | host =>
      rw [State.fifo, hostEgress]
      exact Quad.get_all _ _
    | trunk t =>
      obtain ⟨_, own⟩ := trunk t
      rw [State.fifo, own]
      change (restartedTrunk (countIn s) t).egress.fifo.get k = []
      rw [restartedTrunk_egress]
      exact Quad.get_all _ _
  have rx : l.rx = .hunting := by rw [common]; rfl
  have tx (m : Message) (k : Option Cls) (h : s.link.tx = .telegram m k) : l.tx = .telegram m none := by
    have h : (countIn s).link.tx = .telegram m k := h
    rw [common]
    simp only [restartedLink, h]
  have quiet : l.credit = 0 ∧ l.telegramSeq = 0 ∧ l.unacked = [] ∧ l.noticeTimer = none ∧ l.stalled = false ∧ l.resendDue = .no := by
    rw [common]
    exact ⟨rfl, rfl, rfl, rfl, rfl, rfl⟩
  obtain ⟨credit, telegramSeq, unacked, noticeTimer, stalled, resendDue⟩ := quiet
  have counters : l.counters = (takeRestart clear (countIn s)).link.counters := by rw [common, link]
  refine ⟨_, hexec, ?_, ?_, fun p => ?_, ?_, fifo, fun t k => ?_, dir, aging, params, clock, fun t => ?_, rx, tx, credit, telegramSeq,
    unacked, noticeTimer, stalled, resendDue, fun h => ?_, fun h => ?_, fun t h => ?_, fun h => ?_⟩
  · exact store ▸ rfl
  · exact store ▸ rfl
  · change (takeRestart clear (countIn s)).store.occ.get p = 0
    rw [store]
    cases p with
    | trunk t => exact Quad.get_all _ _
    | host => rfl
  · exact store ▸ rfl
  · obtain ⟨_, own⟩ := trunk t
    change ((takeRestart clear (countIn s)).trunk t).egress.balance.get k = 0
    rw [own]
    change (restartedTrunk (countIn s) t).egress.balance.get k = 0
    rw [restartedTrunk_egress]
    exact Quad.get_all _ _
  · obtain ⟨_, own⟩ := trunk t
    have own : (((takeRestart clear (countIn s)).setLink l).setWakes w).trunk t = _ := own
    rw [own]
    exact record t
  · obtain ⟨-, link', own, dirs, store'⟩ := keep h
    refine ⟨fun t => ?_, ?_, dirs, ?_⟩
    · have own : (((takeRestart clear (countIn s)).setLink l).setWakes w).trunk t = _ := own t
      rw [own, restartedTrunk_counters]
      rfl
    · exact counters.trans (by rw [link']; rfl)
    · have store' : (((takeRestart clear (countIn s)).setLink l).setWakes w).store = _ := store'
      rw [store']
      exact ⟨rfl, rfl, rfl, rfl, rfl⟩
  · obtain ⟨-, link', own, dirs, store'⟩ := zero h
    refine ⟨fun t => ?_, ?_, ?_, store'⟩
    · have own : (((takeRestart clear (countIn s)).setLink l).setWakes w).trunk t = _ := own t
      rw [own]
      rfl
    · have zeros : l.counters = .zero := counters.trans (by rw [link'])
      exact congrArg LinkCounters.list zeros
    · exact congrArg DirCounters.list dirs
  · have heard : (countIn s).listeners ≠ Quad.all false := fun deaf => by
      have := (listeners_eq_none_iff (countIn s)).mp deaf t
      rw [show ((countIn s).trunk t).listening = (s.trunk t).listening from rfl, h] at this
      cases this
    have waits := waiting heard
    change l.replies = _ ∧ l.pendingNotices = _ ∧ l.lost = _ ∧ l.noticeSeq = _ ∧ l.cache = _ ∧ l.restart = _
    rw [waits]
    exact ⟨rfl, rfl, rfl, rfl, rfl, rfl⟩
  · have done := complete ((listeners_eq_none_iff (countIn s)).mpr h)
    change l.restart = _ ∧ l.pendingNotices = _ ∧ l.noticeSeq = _ ∧ l.replies = _
    rw [done]
    exact ⟨rfl, rfl, rfl, rfl⟩

end Sys2Proof.Machine
end


section
/-!
PROOFS. The grants, the spoiled messages, the ends of messages sent, the notice timer and the aging timer (02 R22, R23, 08 R149 to R161).
-/

namespace Sys2Proof.Machine

/-! ### Grants -/

section Grants

variable {s : State}

theorem grant_eq {body : List Byte} (h : body.length ≤ 256) (f : State → State) (s : State) :
    grant body f s = finish (resume (f (countIn s))) := if_pos h

theorem takeCredit_good {n : Byte} (h1 : 1 ≤ n.toNat) (h16 : n.toNat ≤ 16) (s : State) :
    takeCredit [n] s = s.modLink fun l => { l with credit := min 16 (l.credit + n.toNat) } := if_pos ⟨h1, h16⟩

theorem takeCredit_bad {body : List Byte} (h : ∀ n, body = [n] → n.toNat = 0 ∨ 16 < n.toNat) (s : State) :
    takeCredit body s = countBadIn s := by
  unfold takeCredit
  split
  · next n =>
    refine if_neg fun fits => ?_
    have fits : 1 ≤ n.toNat ∧ n.toNat ≤ 16 := fits
    have := h n rfl
    omega
  · rfl

theorem dropThrough_found {n : Byte} {older newer : List Unacked} {x : Unacked} (hx : x.notice.seq = n)
    (h : ∀ y ∈ older, y.notice.seq ≠ n) : dropThrough n (older ++ x :: newer) = some newer := by
  induction older with
  | nil => exact if_pos hx
  | cons y ys ih =>
    rw [List.cons_append, dropThrough, if_neg (h y List.mem_cons_self)]
    exact ih fun z hz => h z (List.mem_cons_of_mem y hz)

theorem dropThrough_none {n : Byte} {l : List Unacked} (h : ∀ y ∈ l, y.notice.seq ≠ n) : dropThrough n l = none := by
  induction l with
  | nil => rfl
  | cons y ys ih =>
    rw [dropThrough, if_neg (h y List.mem_cons_self)]
    exact ih fun z hz => h z (List.mem_cons_of_mem y hz)

theorem acknowledge_eq (rest : List Unacked) (s : State) : acknowledge rest s = s.modLink fun l =>
    { l with
      unacked := rest
      resendDue := .no
      noticeTimer := if rest = [] ∨ l.stalled = true then none else some ⟨s.timebase, s.params.noticeTimeout⟩ } := by
  by_cases h : rest = [] ∨ s.link.stalled = true
  · exact (if_pos h).trans (congrArg s.setLink (by simp only [if_pos h]))
  · refine (if_neg h).trans ?_
    rw [startNoticeTimer, State.modLink_modLink]
    exact congrArg s.setLink (by simp only [if_neg h]; rfl)

theorem takeNoted_badBody {body : List Byte} (h : body.length ≠ 1) (s : State) : takeNoted body s = countBadIn s := by
  unfold takeNoted
  split
  · exact absurd rfl h
  · rfl

theorem resume_idle (h : s.link.stalled = false) : resume s = s := by simp [resume, h]

theorem resume_stalled (h : s.link.stalled = true) : resume s = s.modLink fun l =>
    match l.unacked with
    | [] => { l with stalled := false }
    | u :: us => { l with stalled := false, unacked := { u with resends := 0 } :: us, resendDue := .afterStall } := if_pos h

end Grants

/-- Settles O26: each grant's effect, carried through the end of a stall and of the event. -/
theorem grantsTakeEffect : Obligations.GrantsTakeEffect := by
  refine ⟨fun seq body s hr hl => ⟨fun n hb h1 h16 => ?_, fun h => ?_⟩, fun seq s hr => ⟨fun n older x newer hu hx ho => ?_,
    fun n h => ?_, fun body h hl => ?_⟩, fun s => ⟨resume_idle, fun h hu => ?_, fun x xs h hu => ?_⟩⟩
  · subst hb
    refine (whileRunning_running hr _).trans ?_
    rw [grant_eq hl, takeCredit_good h1 h16]
  · refine (whileRunning_running hr _).trans ?_
    rw [grant_eq hl, takeCredit_bad h]
  · refine (whileRunning_running hr _).trans ?_
    have found : dropThrough n (countIn s).link.unacked = some newer := by
      change dropThrough n s.link.unacked = _
      rw [hu, dropThrough_found hx ho]
    rw [grant_eq (by simp)]
    simp only [takeNoted, found, acknowledge_eq]
    rfl
  · refine (whileRunning_running hr _).trans ?_
    have missing : dropThrough n (countIn s).link.unacked = none := dropThrough_none (l := s.link.unacked) h
    rw [grant_eq (by simp)]
    simp only [takeNoted, missing]
  · refine (whileRunning_running hr _).trans ?_
    rw [grant_eq hl, takeNoted_badBody h]
  · rw [resume_stalled h]
    exact congrArg s.setLink (by simp only [hu])
  · rw [resume_stalled h]
    exact congrArg s.setLink (by simp only [hu])

/-! ### Spoiled messages -/

/-- A notice raised changes the queue of notices alone, and the count of those lost. -/
theorem raise_link_rest (f : NoticeFields) (s : State) : (raise f s).link =
    { s.link with
      pendingNotices := (raise f s).link.pendingNotices, noticeSeq := (raise f s).link.noticeSeq, lost := (raise f s).link.lost
      counters := { s.link.counters with noticesLost := (raise f s).link.counters.noticesLost } } := by
  unfold raise
  split
  · split <;> rfl
  · rfl

theorem testRecovered_link_rest (s : State) : (testRecovered s).link.rx = s.link.rx ∧
    (testRecovered s).link.stalled = s.link.stalled ∧
    (testRecovered s).link.counters.badFramesIn = s.link.counters.badFramesIn := by
  unfold testRecovered
  split
  · rw [raise_link_rest]
    exact ⟨rfl, rfl, rfl⟩
  · exact ⟨rfl, rfl, rfl⟩

theorem occ_put_get (o : Occupancy) (p q : Port) (v : Nat) : (o.put p v).get q = if q = p then v else o.get q := by
  cases p with
  | host => cases q <;> simp [Occupancy.put, Occupancy.get]
  | trunk t =>
    cases q with
    | host => simp [Occupancy.put, Occupancy.get]
    | trunk u => simp [Occupancy.put, Occupancy.get, Quad.get_set]

/-- Settles O27: what a release of the arrival's reservation changes, from the laws of the store. -/
theorem spoiledMessageDiscarded : Obligations.SpoiledMessageDiscarded := by
  intro s c hc hr
  have run : exec c s = .next (finish (countBadIn (dropArrival s))) := by
    rcases hc with rfl | rfl <;> exact whileRunning_running hr _
  rw [run]
  refine ⟨fun hx => ?_, fun n r hx => ?_, fun n k x hx hk => ?_⟩
  · have same : dropArrival s = s := by
      simp only [dropArrival, hx]
      exact congrArg s.setLink (by rw [← hx])
    rw [same]
  · have dropped : dropArrival s = s.modLink fun l => { l with rx := .hunting } := by
      rcases hx with hx | hx <;> simp only [dropArrival, hx, giveBack]
    rw [dropped]
  · have found : (s.modLink fun l => { l with rx := .hunting }).ticket k = some x := hk
    have dropped : dropArrival s = testRecovered ((s.modLink fun l => { l with rx := .hunting }).setStore (s.store.release x)) := by
      rw [dropArrival_granted hx, releaseFilling, found]
      rfl
    have tickets := releaseFilling_ticket (s := s.modLink fun l => { l with rx := .hunting }) k
    rw [← dropArrival_granted hx] at tickets
    obtain ⟨rx, stalled, bad⟩ := testRecovered_link_rest ((s.modLink fun l => { l with rx := .hunting }).setStore (s.store.release x))
    have services := testRecovered_services ((s.modLink fun l => { l with rx := .hunting }).setStore (s.store.release x))
    have store := testRecovered_store ((s.modLink fun l => { l with rx := .hunting }).setStore (s.store.release x))
    have dir := testRecovered_dir (s := (s.modLink fun l => { l with rx := .hunting }).setStore (s.store.release x))
    have trunks := testRecovered_trunks (s := (s.modLink fun l => { l with rx := .hunting }).setStore (s.store.release x))
    have egress := testRecovered_hostEgress (s := (s.modLink fun l => { l with rx := .hunting }).setStore (s.store.release x))
    rw [← dropped] at rx stalled bad services store dir trunks egress
    refine ⟨_, rfl, rx, stalled, congrArg countUp bad, (tickets k).trans (if_pos rfl), fun m hm => (tickets m).trans (if_neg hm),
      ?_, ?_, fun p hp => ?_, ?_, trunks, egress, dir, services.params, services.clock⟩
    · exact congrArg Store.freeBlocks store
    · refine (congrArg (fun st : Store => st.occ.get x.port) store).trans ((occ_put_get _ _ _ _).trans (if_pos rfl))
    · refine (congrArg (fun st : Store => st.occ.get p) store).trans ((occ_put_get _ _ _ _).trans (if_neg hp))
    · change (dropArrival s).store.low = (s.store.low && decide ((dropArrival s).store.freeBlocks ≤ s.params.poolLow + 32))
      rw [store]
      rfl

/-! ### Messages sent -/

theorem timeNotice_due {s : State} (ht : s.link.noticeTimer = none) (hu : s.link.unacked ≠ []) (hs : s.link.stalled = false) :
    timeNotice s = startNoticeTimer s := if_pos ⟨ht, hu, hs⟩

theorem timeNotice_kept {s : State} (h : s.link.noticeTimer ≠ none ∨ s.link.unacked = [] ∨ s.link.stalled = true) :
    timeNotice s = s := by
  refine if_neg fun ⟨ht, hu, hs⟩ => ?_
  rcases h with h | h | h
  · exact h ht
  · exact hu h
  · rw [hs] at h
    cases h

/-- Settles O28: the end of each message that the transmitter sends. -/
theorem messagesEnd : Obligations.MessagesEnd := by
  intro s m hr u
  refine ⟨fun hx => ?_, fun hx ht hu hs => ?_, fun hx h => ?_, fun c q qs hx hq => ?_, fun hx => ?_⟩
  · refine (whileRunning_running hr _).trans ?_
    simp only [replyEnd, hx]
    rfl
  · refine (whileRunning_running hr _).trans ?_
    simp only [noticeEnd, hx]
    rw [timeNotice_due (s := endMessage s) ht hu hs]
    rfl
  · refine (whileRunning_running hr _).trans ?_
    simp only [noticeEnd, hx]
    rw [timeNotice_kept (s := endMessage s) h]
    rfl
  · refine (whileRunning_running hr _).trans ?_
    have head : (countLink (fun k => { k with telegramsOut := countUp k.telegramsOut }) (endMessage s)).fifo .host c = q :: qs := hq
    simp only [telegramEnd, hx, departHost, head, popHead_eq head]
    rfl
  · refine (whileRunning_running hr _).trans ?_
    simp only [telegramEnd, hx, departHost]
    rfl

/-! ### The notice timer -/

/-- Settles O29: the timer's expiry by the resends of the oldest notice. -/
theorem noticeTimerRunsOut : Obligations.NoticeTimerRunsOut := by
  intro s m x xs hr ht hu u hv
  have run : exec .noticeTimerExpiry s = .next (finish (noticeSilence u)) := by
    refine (whileRunning_running hr _).trans ?_
    simp only [noticeTimerExpiry, ht, hv]
    rfl
  have oldest : u.link.unacked = x :: xs := by
    rw [hv]
    exact hu
  rw [run]
  refine ⟨fun h => ?_, fun h => ?_⟩
  · have few : x.resends < Config.resendLimit := h
    simp only [noticeSilence, oldest, few, if_true]
  · have many : ¬x.resends < Config.resendLimit := by
      change ¬x.resends < 3
      omega
    simp only [noticeSilence, oldest, many, if_false]

/-! ### The aging timer -/

theorem removeStation_hostEgress_store (n : Num) (st : Station) (c : Cause) (s : State) :
    (removeStation n st c s).hostEgress = s.hostEgress ∧ (removeStation n st c s).store = s.store :=
  ⟨removeStation_hostEgress _ _ _ _, removeStation_store _ _ _⟩

theorem scanEntry_hostEgress_store (n : Num) (s : State) :
    (scanEntry n s).hostEgress = s.hostEgress ∧ (scanEntry n s).store = s.store := by
  unfold scanEntry
  split
  · exact ⟨rfl, rfl⟩
  · split
    · exact ⟨rfl, rfl⟩
    · split
      · exact ⟨rfl, rfl⟩
      · split
        · exact removeStation_hostEgress_store _ _ _ _
        · split <;> exact ⟨rfl, rfl⟩

theorem agingScan_hostEgress_store (s : State) : (agingScan s).hostEgress = s.hostEgress ∧ (agingScan s).store = s.store := by
  unfold agingScan
  generalize s.dir.map DirEntry.num = l
  induction l generalizing s with
  | nil => exact ⟨rfl, rfl⟩
  | cons x xs ih =>
    obtain ⟨egress, store⟩ := scanEntry_hostEgress_store x s
    obtain ⟨egress', store'⟩ := ih (scanEntry x s)
    exact ⟨egress'.trans egress, store'.trans store⟩

/-- Settles O30: the scan entry by entry, from the moment the period ended. -/
theorem agingScans : Obligations.AgingScans := by
  intro s hr hd gone
  let v := (reachMs s.aging.due s).setAging ⟨s.aging.due, s.params.agingPeriod * 1000⟩
  obtain ⟨entry, link, counters, wakes, trunks⟩ := agingScan_spec (s := v) hd.1
  obtain ⟨egress, store⟩ := agingScan_hostEgress_store v
  have services := agingScan_services v
  refine ⟨agingScan v, whileRunning_running hr _, services.aging, services.clock, store, fun e c => ?_, trunks, services.params, ?_,
    counters, wakes, fun n => ?_⟩
  · exact fifo_of_trunks trunks egress e c
  · rw [link]
    have raised := foldl_raise_link_congr ((s.dir.filter DirEntry.ages).map fun e => NoticeFields.gone e.num .aged)
      (s := s) (u := v) rfl rfl
    rw [List.foldl_map, List.foldl_map] at raised
    exact raised
  · rw [entry n]
    change (s.entry n).bind DirEntry.scanned = _
    cases he : s.entry n with
    | none => rfl
    | some e =>
      obtain ⟨num, body⟩ := e
      obtain rfl : num = n := entry_num he
      rfl

end Sys2Proof.Machine
end


section
/-!
PROOFS. The frames the exchange sends (04 R60, R61, R68 to R71, 05 R91 to R101): their starts and their ends.
-/

namespace Sys2Proof.Machine

section Frames

variable {s : State} {t : TrunkId} {x : Txn} {a : Activity}

/-- A waiting frame may start on an idle line. -/
theorem mayStart_waiting (hl : (s.trunk t).listening = true) (ht : (s.trunk t).tx = none) (hr : (s.trunk t).rx = .none)
    (ha : (s.trunk t).activity = a) (hx : (s.trunk t).txn = some x) (hp : x.phase = .waiting) : s.mayStart t a = true := by
  simp [State.mayStart, hl, ht, hr, ha, hx, hp]

/-- A frame that starts after a write to its trunk's record. -/
theorem startFrame_modTrunk (f : Trunk → Trunk) (g : Frame) (hx : (f (s.trunk t)).txn = some x) :
    startFrame t g (s.modTrunk t f) =
      s.modTrunk t fun k => { f k with tx := some g, txn := some { x with phase := .sending } } := by
  unfold startFrame setPhase
  rw [State.modTrunk_modTrunk, State.modTrunk_modTrunk]
  refine State.modTrunk_congr _ ?_
  simp only [hx, Option.map_some]

theorem startFrame_eq (g : Frame) (hx : (s.trunk t).txn = some x) : startFrame t g s =
    s.modTrunk t fun k => { k with tx := some g, txn := some { x with phase := .sending } } := by
  unfold startFrame setPhase
  rw [State.modTrunk_modTrunk]
  refine State.modTrunk_congr _ ?_
  simp only [hx, Option.map_some]

theorem endFrame_eq (hx : (s.trunk t).txn = some x) : endFrame t s =
    s.modTrunk t fun k => { k with tx := none, txn := some { x with phase := .ended } } := by
  unfold endFrame setPhase
  rw [State.modTrunk_modTrunk]
  refine State.modTrunk_congr _ ?_
  simp only [hx, Option.map_some]

theorem sendingIn_sending (ha : (s.trunk t).activity = a) (hx : (s.trunk t).txn = some x) (hp : x.phase = .sending) :
    s.sendingIn t a = true := by
  simp [State.sendingIn, ha, hx, hp]

/-- A frame's end that starts a timer. -/
theorem startTimer_endFrame (hx : (s.trunk t).txn = some x) (units : Nat) : startTimer t units (endFrame t s) =
    s.modTrunk t fun k => { k with tx := none, txn := some { x with phase := .ended }, timer := some (s.clock + units) } := by
  rw [endFrame_eq hx, startTimer, State.modTrunk_modTrunk]
  rfl

end Frames

/-- Settles O31: each frame's start as one write to its trunk's record. -/
theorem framesStart : Obligations.FramesStart := by
  refine ⟨fun t s x hr hl ht hx0 hx hp => ⟨fun n ha hk => ?_, fun ha => ?_, fun n m ha hc => ?_, fun n m r ha hc => ?_⟩,
    fun t s x c n k b hr hl ht hx0 ha hx hp hk hs => ?_⟩
  · have start : pollStart t s = startFrame t (pollFrame n) (countTrunk t (fun c => { c with polls := countUp c.polls }) s) := by
      simp only [pollStart, mayStart_waiting hl ht hx0 ha hx hp, hx, Option.map_some, hk, if_true]
    refine (whileRunning_running hr _).trans (congrArg _ (start.trans ?_))
    refine startFrame_modTrunk _ _ ?_
    exact hx
  · have start : callStart t s = startFrame t callFrame ((countTrunk t (fun c => { c with calls := countUp c.calls }) s).modTrunk t
        fun k => { k with lastCall := some s.timebase, callMade := true }) := if_pos (mayStart_waiting hl ht hx0 ha hx hp)
    rw [countTrunk, State.modTrunk_modTrunk] at start
    refine (whileRunning_running hr _).trans (congrArg _ (start.trans ?_))
    refine startFrame_modTrunk _ _ ?_
    exact hx
  · have start : confirmStart t s = startFrame t ⟨n, .receipt, m, false, []⟩ s := by
      simp only [confirmStart, mayStart_waiting hl ht hx0 ha hx hp, hx, Option.bind_some, hc, if_true]
      rfl
    exact (whileRunning_running hr _).trans (congrArg _ (start.trans (startFrame_eq _ hx)))
  · have start : confirmStart t s = startFrame t ⟨n, .refuse, m, false, [r.code]⟩
        (countTrunk t (fun c => { c with refusalsSent := countUp c.refusalsSent }) s) := by
      simp only [confirmStart, mayStart_waiting hl ht hx0 ha hx hp, hx, Option.bind_some, hc, if_true]
      rfl
    refine (whileRunning_running hr _).trans (congrArg _ (start.trans ?_))
    refine startFrame_modTrunk _ _ ?_
    exact hx
  · have start : bcastStart t s = startFrame t (bcastFrame k.source b)
        (countTrunk t (fun r => { r with spreads := countUp r.spreads }) s) := by
      simp only [bcastStart, mayStart_waiting hl ht hx0 ha hx hp, hx, Option.map_some, hk, hs, if_true]
    refine (whileRunning_running hr _).trans (congrArg _ (start.trans ?_))
    refine startFrame_modTrunk _ _ ?_
    exact hx

/-- A class whose head alone is rewritten is not emptied. -/
theorem setHead_eq {s : State} {t : TrunkId} {c : Cls} {q : QEntry} {qs : List QEntry} (hq : s.fifo (.trunk t) c = q :: qs)
    (r : QEntry) : setHead (.trunk t) c r s =
      s.modTrunk t fun k => { k with egress := { k.egress with fifo := k.egress.fifo.set c (r :: qs) } } := by
  rw [setHead, hq, List.tail_cons]
  rfl

theorem markStarted_eq {s : State} {t : TrunkId} {c : Cls} {q : QEntry} {qs : List QEntry} (hq : s.fifo (.trunk t) c = q :: qs) :
    markStarted t c s = s.modTrunk t fun k =>
      { k with egress := { k.egress with fifo := k.egress.fifo.set c ({ q with started := true } :: qs) } } := by
  rw [← setHead_eq hq]
  simp only [markStarted, hq]

/-- A DELIVER's start in the state `v` that its marks leave, as one write. -/
theorem deliver_started {s v : State} {t : TrunkId} {x : Txn} {c : Cls} {q : QEntry} {qs : List QEntry} (g : Frame) (m : Bool)
    (trunk : v.trunk t = s.trunk t) (hx : (s.trunk t).txn = some x) (hq : s.fifo (.trunk t) c = q :: qs) :
    startFrame t g (setTxnMark t m (markStarted t c (countTrunk t (fun r => { r with delivers := countUp r.delivers }) v))) =
      v.modTrunk t fun w =>
        { w with
          tx := some g
          txn := some { x with phase := .sending, mark := m }
          counters := { w.counters with delivers := countUp w.counters.delivers }
          egress := { w.egress with fifo := w.egress.fifo.set c ({ q with started := true } :: qs) } } := by
  have head : (countTrunk t (fun r => { r with delivers := countUp r.delivers }) v).fifo (.trunk t) c = q :: qs := by
    have hq : (s.trunk t).egress.fifo.get c = q :: qs := hq
    simp only [State.fifo, countTrunk, State.modTrunk_trunk_self, trunk]
    exact hq
  have hx : (v.trunk t).txn = some x := trunk ▸ hx
  rw [markStarted_eq head, setTxnMark, countTrunk, State.modTrunk_modTrunk, State.modTrunk_modTrunk]
  refine startFrame_modTrunk (x := { x with mark := m }) _ _ ?_
  simp only [hx, Option.map_some]

/-- Settles O32: the frame's marks from the destination's entry, or the free ones. -/
theorem deliverStarts : Obligations.DeliverStarts := by
  intro t s x d c n a k b q qs hr hl ht hx0 ha hx hp hk hs hq started
  have start : deliverStart t s = startFrame t (deliverFrame k.source b (deliverMarks b.dest s).2.1 (deliverMarks b.dest s).2.2)
      (setTxnMark t (deliverMarks b.dest s).2.1 (markStarted t c
        (countTrunk t (fun r => { r with delivers := countUp r.delivers }) (deliverMarks b.dest s).1))) := by
    simp only [deliverStart, mayStart_waiting hl ht hx0 ha hx hp, hx, Option.map_some, hk, hs, if_true]
  refine ⟨fun st hst => (whileRunning_running hr _).trans (congrArg _ (start.trans ?_)),
    fun hst => (whileRunning_running hr _).trans (congrArg _ (start.trans ?_))⟩
  · have marks : deliverMarks b.dest s = (s, st.outMark, st.resync) := by simp only [deliverMarks, hst]
    rw [marks]
    exact deliver_started _ _ rfl hx hq
  · have marks : deliverMarks b.dest s = (s.setFree (s.free + 1), Config.freeMark s.free, Config.freeResync s.free) := by
      simp only [deliverMarks, hst]
    rw [marks]
    exact deliver_started _ _ rfl hx hq

/-- Settles O33: each frame's end as one write to its trunk's record, and a confirmation's end before the transaction's. -/
theorem framesEnd : Obligations.FramesEnd := by
  intro t s x hr hx hp ends
  refine ⟨fun ha => ?_, fun ha => ?_, fun ha => ?_, fun ha => ?_, fun ha => ?_⟩
  · refine (whileRunning_running hr _).trans (congrArg _ ?_)
    rw [pollEnd, if_pos (sendingIn_sending ha hx hp), startTimer_endFrame hx]
  · refine (whileRunning_running hr _).trans (congrArg _ ?_)
    rw [callEnd, if_pos (sendingIn_sending ha hx hp), startTimer_endFrame hx]
  · refine (whileRunning_running hr _).trans (congrArg _ ?_)
    rw [deliverEnd, if_pos (sendingIn_sending ha hx hp), startTimer_endFrame hx]
  · refine (whileRunning_running hr _).trans (congrArg _ ?_)
    rw [bcastEnd, if_pos (sendingIn_sending ha hx hp), startTimer_endFrame hx]
  · refine (whileRunning_running hr _).trans (congrArg _ ?_)
    rw [confirmEnd, if_pos (sendingIn_sending ha hx hp), endFrame_eq hx]

end Sys2Proof.Machine
end


section
/-!
PROOFS. Frames heard and timers that run out (04 R60 to R64, R79 to R82, 05 R91, R93, R101 to R104, 09 R183).
-/

namespace Sys2Proof.Machine

/-! ### Frame starts -/

section Starts

variable {s : State} {t : TrunkId}

theorem listening_iff (k : Trunk) : k.listening = true ↔ k.mode ≠ .closed ∧ k.line = .sound := by
  simp [Trunk.listening]

theorem awaitsAnswer_iff (s : State) (t : TrunkId) : s.awaitsAnswer t = true ↔
    ((s.trunk t).activity = .polling ∨ (s.trunk t).activity = .calling ∨ (s.trunk t).activity = .delivering) ∧
      (s.trunk t).txn.map Txn.phase = some .ended ∧ (s.trunk t).timer ≠ none := by
  simp only [State.awaitsAnswer, Bool.and_eq_true, Bool.or_eq_true, decide_eq_true_eq, Option.isSome_iff_ne_none, or_assoc, and_assoc]

theorem frameStart_heard (hl : (s.trunk t).listening = true) (ht : (s.trunk t).tx = none) (hr : (s.trunk t).rx = .none) :
    frameStart t s = if s.awaitsAnswer t then s.modTrunk t fun k => { k with rx := .answer, timer := none }
      else if (s.trunk t).activity = .settling then setRx t .late s else setRx t .stray s := if_pos ⟨hl, ht, hr⟩

theorem frameStart_unheard (h : (s.trunk t).listening = false ∨ (s.trunk t).tx ≠ none) : frameStart t s = s := by
  refine if_neg fun ⟨hl, ht, _⟩ => ?_
  rcases h with h | h
  · rw [h] at hl
    cases hl
  · exact h ht

end Starts

/-- Settles O34: a frame's start by what the controller waits for. -/
theorem frameStarts : Obligations.FrameStarts := by
  intro t s hr
  refine ⟨fun hl ht hx => ⟨fun ha => ?_, fun hs => ?_, fun ha hs => ?_⟩, fun h => ?_, listening_iff _, awaitsAnswer_iff s t⟩
  · refine (whileRunning_running hr _).trans (congrArg _ ?_)
    rw [frameStart_heard hl ht hx, if_pos ha]
  · have ha : ¬s.awaitsAnswer t = true := fun ha => by
      obtain ⟨ha, -⟩ := (awaitsAnswer_iff s t).mp ha
      rw [hs] at ha
      rcases ha with ha | ha | ha <;> cases ha
    refine (whileRunning_running hr _).trans (congrArg _ ?_)
    rw [frameStart_heard hl ht hx, if_neg ha, if_pos hs]
    rfl
  · refine (whileRunning_running hr _).trans (congrArg _ ?_)
    rw [frameStart_heard hl ht hx, if_neg (by simp [ha]), if_neg hs]
    rfl
  · exact (whileRunning_running hr _).trans (congrArg _ (frameStart_unheard h))

/-! ### Frame ends -/

section Ends

variable {s : State} {t : TrunkId}

theorem frameEnds_late (h : (s.trunk t).rx = .late) (judge : State → State) : frameEnds t judge s = s.modTrunk t fun k =>
    { k with rx := .none, counters := { k.counters with late := countUp k.counters.late } } := by
  simp only [frameEnds, h, setRx, countTrunk, State.modTrunk_modTrunk]

theorem frameEnds_stray (h : (s.trunk t).rx = .stray) (judge : State → State) : frameEnds t judge s = s.modTrunk t fun k =>
    { k with rx := .none, counters := { k.counters with stray := countUp k.counters.stray } } := by
  simp only [frameEnds, h, setRx, countTrunk, State.modTrunk_modTrunk]

theorem frameEnds_answer (h : (s.trunk t).rx = .answer) (judge : State → State) :
    frameEnds t judge s = finish (judge (s.modTrunk t fun k => { k with rx := .none })) := by
  simp only [frameEnds, h, setRx]

/-- Whatever the frame, its end is judged by `frameEnds`. -/
theorem exec_frame (hr : s.inReset = false) {c : Instr} (hc : (∃ h d k data, c = .dataFrame t h d k data) ∨
    (∃ h, c = .nilFrame t h) ∨ (∃ h, c = .ackFrame t h) ∨ (∃ h, c = .busyFrame t h) ∨ (∃ h p, c = .joinFrame t h p) ∨
    c = .failedFrame t ∨ c = .truncatedFrame t) : ∃ judge, exec c s = .next (frameEnds t judge s) := by
  rcases hc with ⟨h, d, k, data, rfl⟩ | ⟨h, rfl⟩ | ⟨h, rfl⟩ | ⟨h, rfl⟩ | ⟨h, p, rfl⟩ | rfl | rfl <;>
    exact ⟨_, whileRunning_running hr _⟩

end Ends

/-- Settles O41: a LATE or STRAY frame is counted before any judgement; a fragment where the receiver listens. -/
theorem lateStrayAndFragment : Obligations.LateStrayAndFragment := by
  intro t s hr
  refine ⟨fun c hc => ?_, fun hl ht hx => (whileRunning_running hr _).trans (congrArg _ (if_pos ⟨hl, ht, hx⟩))⟩
  obtain ⟨judge, run⟩ := exec_frame hr hc
  rw [run]
  exact ⟨fun h => congrArg _ (frameEnds_late h judge), fun h => congrArg _ (frameEnds_stray h judge)⟩

/-! ### What the controller waits for -/

section Waiting

variable {s : State} {t : TrunkId} {x : Txn} {n d : Num} {c : Cls} {i a : Nat}

theorem polled_eq (ha : (s.trunk t).activity = .polling) (hx : (s.trunk t).txn = some x) (hk : x.kind = .poll n) :
    s.polled t = some n := by
  simp only [State.polled, ha, hx, Option.map_some, hk, if_true]

theorem polled_none (ha : (s.trunk t).activity ≠ .polling) : s.polled t = none := if_neg ha

theorem delivering_eq (ha : (s.trunk t).activity = .delivering) (hx : (s.trunk t).txn = some x) (hk : x.kind = .deliver d c i a) :
    s.delivering t = some (d, c, a) := by
  simp only [State.delivering, ha, hx, Option.map_some, hk, if_true]

theorem delivering_none (ha : (s.trunk t).activity ≠ .delivering) : s.delivering t = none := if_neg ha

/-- A POLL unanswered. -/
theorem unanswered_poll (ha : (s.trunk t).activity = .polling) (hx : (s.trunk t).txn = some x) (hk : x.kind = .poll n) :
    unanswered t s = settle t (missed t n s) := by
  simp only [unanswered, delivering_none (s := s) (t := t) (by rw [ha]; decide), polled_eq ha hx hk]

/-- A DELIVER unanswered. -/
theorem unanswered_deliver (ha : (s.trunk t).activity = .delivering) (hx : (s.trunk t).txn = some x)
    (hk : x.kind = .deliver d c i a) : unanswered t s = settle t (attemptFailed t c a (missed t d s)) := by
  simp only [unanswered, delivering_eq ha hx hk]

theorem awaitsAnswer_ended (ha : (s.trunk t).activity = .polling ∨ (s.trunk t).activity = .calling ∨ (s.trunk t).activity = .delivering)
    (hx : (s.trunk t).txn = some x) (hp : x.phase = .ended) (ht : (s.trunk t).timer ≠ none) : s.awaitsAnswer t = true :=
  (awaitsAnswer_iff s t).mpr ⟨ha, by rw [hx, Option.map_some, hp], ht⟩

end Waiting

/-! ### Timers -/

/-- Settles O43: each timer's expiry at the moment it runs out. -/
theorem timersRunOut : Obligations.TimersRunOut := by
  intro t s x due hr hx ht u hu
  have up : timeIsUp t due s = u := hu ▸ rfl
  have trunk : (u.trunk t).txn = some x ∧ (u.trunk t).activity = (s.trunk t).activity := by
    rw [hu, State.modTrunk_trunk_self]
    exact ⟨hx, rfl⟩
  have counted : ((countTrunk t (fun c => { c with timeouts := countUp c.timeouts }) u).trunk t).txn = some x ∧
      ((countTrunk t (fun c => { c with timeouts := countUp c.timeouts }) u).trunk t).activity = (s.trunk t).activity := by
    rw [countTrunk, State.modTrunk_trunk_self]
    exact trunk
  obtain ⟨txn, activity⟩ := trunk
  obtain ⟨txn', activity'⟩ := counted
  have running : (s.trunk t).timer ≠ none := by simp [ht]
  refine ⟨fun n ha hp hk => ?_, fun d c n a ha hp hk => ?_, fun ha hp => ?_, fun ha => ?_, fun c n q qs ha hk hq => ?_⟩
  · refine (whileRunning_running hr _).trans (congrArg _ ?_)
    have awaits := awaitsAnswer_ended (.inl ha) hx hp running
    simp only [answerTimeout, ht]
    rw [if_pos ⟨awaits, by rw [ha]; decide⟩, up, unanswered_poll (activity'.trans ha) txn' hk]
  · refine (whileRunning_running hr _).trans (congrArg _ ?_)
    have awaits := awaitsAnswer_ended (.inr (.inr ha)) hx hp running
    simp only [answerTimeout, ht]
    rw [if_pos ⟨awaits, by rw [ha]; decide⟩, up, unanswered_deliver (activity'.trans ha) txn' hk]
  · refine (whileRunning_running hr _).trans (congrArg _ ?_)
    have awaits := awaitsAnswer_ended (.inr (.inl ha)) hx hp running
    simp only [callWindowExpiry, ht]
    rw [if_pos ⟨awaits, ha⟩, up]
  · refine (whileRunning_running hr _).trans (congrArg _ ?_)
    simp only [settleGapEnd, ht]
    rw [if_pos ha, up]
  · have head : u.fifo (.trunk t) c = q :: qs := by
      rw [hu]
      exact (fifo_modTrunk (s.setClock (max s.clock due)) (by rfl) _ _).trans hq
    have run : exec (.spreadGapEnd t) s = .next (finish (endTxn t (departBcast t u))) := by
      refine (whileRunning_running hr _).trans (congrArg _ ?_)
      simp only [spreadGapEnd, ht]
      rw [if_pos ha, up]
    rw [run]
    refine ⟨fun hm => congrArg (fun v => Host.Outcome.next (finish (endTxn t v))) ?_,
      fun hm => congrArg (fun v => Host.Outcome.next (finish (endTxn t v))) ?_⟩
    · simp only [departBcast, txn, Option.map_some, hk, head, hm, Bool.false_eq_true, if_false]
    · simp only [departBcast, txn, Option.map_some, hk, head, hm, if_true]

/-- Settles O44: what follows a quiet period, with a RESTART in progress and without; a call that falls due wakes an IDLE controller. -/
theorem quietEndsAndCallFallsDue : Obligations.QuietEndsAndCallFallsDue := by
  intro t s hr
  refine ⟨fun due ha ht u hu => ?_, fun m hl ha hn hm => ?_⟩
  · have ended : (timeIsUp t due s).modTrunk t (fun k => { k with activity := .idle }) = u := by
      rw [hu, timeIsUp, State.modTrunk_modTrunk]
      rfl
    have run : exec (.quietPeriodEnd t) s = .next (finish (afterQuiet t u)) := by
      refine (whileRunning_running hr _).trans (congrArg _ ?_)
      simp only [quietPeriodEnd, ht]
      rw [if_pos ha, ended]
    have link : u.link = s.link := hu ▸ rfl
    rw [run]
    have reports {p : RestartProgress} (hp : s.link.restart = some p) : afterQuiet t u = reportQuiet t u :=
      if_pos (by rw [link, hp]; rfl)
    refine ⟨fun hn => ?_, fun p hp hw => ?_, fun p hp hw hq => ?_, fun p r hp hw hq hc m hm => ?_⟩
    · rw [afterQuiet, link, hn]
      rfl
    · rw [reports hp, reportQuiet_idle]
      intro p' hp'
      rw [link, hp] at hp'
      cases hp'
      exact hw
    · rw [reports hp, reportQuiet_waiting (link ▸ hp) hw hq]
    · rw [reports hp, reportQuiet_last (link ▸ hp) hw hq (link ▸ hc), hm]
      rfl
  · refine (whileRunning_running hr _).trans (congrArg _ ?_)
    have due : reachCall t s = s.setClock (max s.clock ((m + (s.tparams t).callSpacing) * 10)) := by
      simp only [reachCall, hm]
      rfl
    rw [callDue, if_pos ⟨hl, ha, hn⟩, due]
    exact congrArg finish (if_pos ha)

end Sys2Proof.Machine
end


section
/-!
PROOFS. The answers to a POLL, a DELIVER and a CALL (02 R14 to R21, R29, 04 R72, R80, 05 R94 to R100): the good ones, the bad ones, the
attempts that fail, and the directory's record of the stations.
-/

namespace Sys2Proof.Machine

/-! ### The directory's record -/

section Record

variable {s : State} {t : TrunkId} {n : Num} {st : Station}

theorem heard_active (h : s.station n = some st) (hh : st.home = some t) (ha : st.state = .active) :
    heard t n s = putStation n { st with missed := 0, kind := st.kind.heard } s := by
  simp only [heard, h, hh, if_true, ha]
  rw [if_neg (by decide), ← ha]

theorem heard_silent (h : s.station n = some st) (hh : st.home = some t) (hs : st.state = .silent) : heard t n s =
    wake t (raise (.station n .active) (putStation n { st with missed := 0, state := .active, kind := st.kind.heard } s)) := by
  simp only [heard, h, hh, if_true, hs]

theorem heard_other (h : ∀ st, s.station n = some st → st.home ≠ some t) : heard t n s = s := by
  unfold heard
  split
  · rfl
  · next st hst => exact if_neg (h st hst)

theorem missed_limit (h : s.station n = some st) (hm : 3 ≤ st.missed) : missed t n s = s := by
  simp only [missed, h]
  refine if_neg fun ⟨_, low⟩ => ?_
  have low : st.missed < 3 := low
  omega

theorem missed_counts (h : s.station n = some st) (hh : st.home = some t) (hm : st.missed < 2) :
    missed t n s = putStation n { st with missed := st.missed + 1 } s := by
  have low : st.missed < Config.missLimit := Nat.lt_trans hm (by decide)
  simp only [missed, h]
  rw [if_pos ⟨hh, low⟩, if_neg]
  rintro ⟨limit, _⟩
  have limit : st.missed + 1 = 3 := limit
  omega

theorem missed_silences (h : s.station n = some st) (hh : st.home = some t) (hm : st.missed = 2) (ha : st.state = .active) :
    missed t n s = wake t (raise (.station n .silent) (putStation n { st with missed := 3, state := .silent } s)) := by
  have low : st.missed < Config.missLimit := hm ▸ by decide
  have limit : st.missed + 1 = Config.missLimit := hm ▸ rfl
  simp only [missed, h]
  rw [if_pos ⟨hh, low⟩, if_pos ⟨limit, ha⟩, hm]

theorem missed_other (h : ∀ st, s.station n = some st → st.home ≠ some t) : missed t n s = s := by
  unfold missed
  split
  · rfl
  · next st hst => exact if_neg fun here => h st hst here.1

theorem acknowledged_home (h : s.station n = some st) (hh : st.home = some t) : acknowledged t n s = heard t n (putStation n
    { st with outMark := !st.outMark, resync := false, delivered := up16 st.delivered } s) := by
  simp only [acknowledged, h, hh, if_true]

theorem acknowledged_other (h : ∀ st, s.station n = some st → st.home ≠ some t) : acknowledged t n s = s := by
  unfold acknowledged
  split
  · rfl
  · next st hst => exact if_neg (h st hst)

end Record

/-- Settles O42: the three reports, at home and elsewhere. -/
theorem heardAndMissed : Obligations.HeardAndMissed := by
  refine fun t n s => ⟨fun st h hh => ⟨fun ha => ?_, fun hs => ?_, missed_limit h, missed_counts h hh, missed_silences h hh, ?_⟩,
    fun h => ⟨heard_other h, missed_other h, acknowledged_other h⟩⟩
  · rw [heard_active h hh ha]
    rfl
  · rw [heard_silent h hh hs]
    rfl
  · rw [acknowledged_home h hh, up16_eq]

/-! ### A failed attempt -/

section Attempt

variable {s : State} {t : TrunkId} {c : Cls} {a : Nat} {q : QEntry} {qs : List QEntry}

theorem attemptFailed_marked (hq : s.fifo (.trunk t) c = q :: qs) (hm : q.flushMark = true) :
    attemptFailed t c a s = flushedEntry t q (popHead (.trunk t) c s) := by
  simp only [attemptFailed, hq, hm, if_true]

theorem attemptFailed_kept (hq : s.fifo (.trunk t) c = q :: qs) (hm : q.flushMark = false) (ha : a < (s.tparams t).retryLimit) :
    attemptFailed t c a s = setHead (.trunk t) c { q with attempts := a + 1 } s := by
  simp only [attemptFailed, hq, hm, ha, Bool.false_eq_true, if_false, if_true]

theorem attemptFailed_given (hq : s.fifo (.trunk t) c = q :: qs) (hm : q.flushMark = false) (ha : (s.tparams t).retryLimit ≤ a) :
    attemptFailed t c a s = giveUp t c q .retries s := by
  simp only [attemptFailed, hq, hm, Nat.not_lt.mpr ha, Bool.false_eq_true, if_false]

/-- The head given up, before its notice and its reference. -/
def givenUp (t : TrunkId) (c : Cls) (q : QEntry) (s : State) : State :=
  resyncAfter t q (countGivenUp t .retries (popHead (.trunk t) c s))

theorem giveUp_retries (t : TrunkId) (c : Cls) (q : QEntry) (s : State) :
    giveUp t c q .retries s = dropRef q.ticket (raiseUndelivered (.trunk t) q .retries (givenUp t c q s)) := rfl

theorem stored_of_store {s v : State} (h : v.store = s.store) (n : Nat) : v.stored n = s.stored n := by
  unfold State.stored
  rw [ticket_congr h]

end Attempt

/-- Settles O38: the three ends of a failed attempt. -/
theorem attemptFailure : Obligations.AttemptFailure := by
  intro t c a s q qs hq
  refine ⟨attemptFailed_marked hq, fun hm ha => (attemptFailed_kept hq hm ha).trans (setHead_eq hq _), fun hm ha => ?_⟩
  have popped : popHead (.trunk t) c s = setFifo (.trunk t) c qs s := popHead_eq hq
  have trunks : (givenUp t c q s).trunks = (countGivenUp t .retries (popHead (.trunk t) c s)).trunks := resyncAfter_trunks _ _ _
  have counters : ((givenUp t c q s).trunk t).counters =
      { (s.trunk t).counters with
        undelivered := countUp (s.trunk t).counters.undelivered, expired := (s.trunk t).counters.expired } := by
    rw [trunk_of_trunks trunks, countGivenUp, countTrunk, State.modTrunk_trunk_self, popHead, setFifo_counters]
    rfl
  refine ⟨givenUp t c q s, (attemptFailed_given hq hm ha).trans (giveUp_retries t c q s), ?_, ?_, ?_, fun k b st hs hf hst hn hh => ?_⟩
  · rw [fifo_of_trunks trunks (resyncAfter_hostEgress _ _ _), popped]
    have queue : (setFifo (.trunk t) c qs s).fifo (.trunk t) c = qs := by rw [fifo_setFifo, if_pos ⟨rfl, rfl⟩]
    unfold countGivenUp countTrunk
    exact fifo_rewritten queue fun _ => by rfl
  · rw [counters]
  · rw [counters]
  · have stored : (countGivenUp t .retries (popHead (.trunk t) c s)).stored q.ticket = some (k, b) :=
      (stored_of_store (by rw [popped]; exact setFifo_store _ _ _) _).trans hs
    have station : (countGivenUp t .retries (popHead (.trunk t) c s)).station b.dest = some st := hn
    rw [givenUp, resyncAfter_started hf hst stored, setResync_home station hh, station_putStation, if_pos rfl]

/-! ### The judgement of an answer -/

section Judged

variable {s : State} {t : TrunkId} {h : StationHead}

theorem judgeNil_notGood (other : ∀ n, s.polled t = some n → h.station ≠ n) : judgeNil t h s = notGood t s := by
  unfold judgeNil
  split
  · next n hn => exact if_neg (other n hn)
  · rfl

theorem judgeData_notGood (other : ∀ n, s.polled t = some n → h.station ≠ n) (d : Num) (k : Byte) (data : List Byte) :
    judgeData t h d k data s = notGood t s := by
  unfold judgeData
  split
  · next n hn => exact if_neg fun here => other n hn here.1
  · rfl

theorem judgeAck_notGood (other : ∀ d c a, s.delivering t = some (d, c, a) → h.station ≠ d) : judgeAck t h s = notGood t s := by
  unfold judgeAck
  split
  · next d c a hd => exact if_neg (other d c a hd)
  · rfl

theorem judgeBusy_notGood (other : ∀ d c a, s.delivering t = some (d, c, a) → h.station ≠ d) : judgeBusy t h s = notGood t s := by
  unfold judgeBusy
  split
  · next d c a hd => exact if_neg (other d c a hd)
  · rfl

theorem judgeJoinFrame_notGood (ha : (s.trunk t).activity ≠ .calling) (p : Byte) : judgeJoinFrame t h p s = notGood t s := if_neg ha

/-- An answer's end in the state that the end of the reception leaves. -/
theorem exec_answer {judge : State → State} {c : Instr} (run : exec c s = whileRunning s (frameEnds t judge)) (hr : s.inReset = false)
    (hx : (s.trunk t).rx = .answer) : exec c s = .next (finish (judge (s.modTrunk t fun k => { k with rx := .none }))) := by
  rw [run, whileRunning_running hr, frameEnds_answer hx]

theorem giveBackTxn_eq {x : Txn} (hx : (s.trunk t).txn = some x) : giveBackTxn t s = giveBack x.held s := by
  rw [giveBackTxn, hx]
  rfl

theorem notGood_calling (ha : (s.trunk t).activity = .calling) : notGood t s = garbledCall t s := by
  simp only [notGood, ha]

theorem notGood_waiting (ha : (s.trunk t).activity = .polling ∨ (s.trunk t).activity = .delivering) : notGood t s = badAnswer t s := by
  rcases ha with ha | ha <;> simp only [notGood, ha]

theorem settle_eq (s : State) (t : TrunkId) : settle t s = s.modTrunk t fun k =>
    { k with activity := .settling, timer := some (s.clock + (s.tparams t).settleGap) } := by
  rw [settle, startTimer, State.modTrunk_modTrunk]
  rfl

end Judged

/-! ### Good answers -/

section Good

variable {s : State} {t : TrunkId} {x : Txn}

/-- The burst as a transaction of a kind leaves it (05 R92). -/
def TxnKind.burstAfter (k : TxnKind) (burst : Option Nat) : Option Nat :=
  match k with
  | .poll _ => some 0
  | .call => none
  | .deliver _ _ _ _ => burst
  | .bcast _ _ => burst

/-- The end of a transaction as one write before the work decision. -/
theorem endTxn_eq (hx : (s.trunk t).txn = some x) : endTxn t s = workDecision t (s.modTrunk t fun k =>
    { k with activity := .idle, txn := none, timer := none, burst := x.kind.burstAfter k.burst }) := by
  unfold endTxn
  refine congrArg (workDecision t) (State.modTrunk_congr _ ?_)
  simp only [hx]
  cases x.kind <;> rfl

theorem endTxn_ends {b : Option Nat} (hx : (s.trunk t).txn = some x) (hb : x.kind.burstAfter (s.trunk t).burst = b) :
    endTxn t s = workDecision t (s.modTrunk t fun k => { k with activity := .idle, txn := none, timer := none, burst := b }) := by
  rw [endTxn_eq hx]
  refine congrArg (workDecision t) (State.modTrunk_congr _ ?_)
  simp only [hb]

variable {h : StationHead} {c : Cls} {i a : Nat}

theorem judgeNil_good (ha : (s.trunk t).activity = .polling) (hx : (s.trunk t).txn = some x) (hk : x.kind = .poll h.station) :
    judgeNil t h s = goodNil t h.station (giveBack x.held s) := by
  simp only [judgeNil, polled_eq ha hx hk, if_true, giveBackTxn_eq hx]

theorem judgeAck_good (ha : (s.trunk t).activity = .delivering) (hx : (s.trunk t).txn = some x)
    (hk : x.kind = .deliver h.station c i a) : judgeAck t h s = goodAck t h.station c a h.mark s := by
  simp only [judgeAck, delivering_eq ha hx hk, if_true]

theorem judgeBusy_good (ha : (s.trunk t).activity = .delivering) (hx : (s.trunk t).txn = some x)
    (hk : x.kind = .deliver h.station c i a) : judgeBusy t h s = goodBusy t h.station c a s := by
  simp only [judgeBusy, delivering_eq ha hx hk, if_true]

theorem goodAck_matching (hx : (s.trunk t).txn = some x) (d : Num) : goodAck t d c a x.mark s =
    endTxn t (departHead t c (acknowledged t d (countTrunk t (fun r => { r with acks := countUp r.acks }) s))) := by
  refine if_pos ?_
  rw [countTrunk, State.modTrunk_trunk_self]
  simp only [hx, Option.map_some]

theorem goodAck_other (hx : (s.trunk t).txn = some x) (d : Num) {m : Bool} (hm : m ≠ x.mark) : goodAck t d c a m s =
    endTxn t (attemptFailed t c a (heard t d (countTrunk t (fun r => { r with acks := countUp r.acks }) s))) := by
  refine if_neg ?_
  rw [countTrunk, State.modTrunk_trunk_self]
  simp only [hx, Option.map_some]
  exact fun h => hm (Option.some.inj h).symm

theorem departHead_eq {q : QEntry} {qs : List QEntry} (hq : s.fifo (.trunk t) c = q :: qs) :
    departHead t c s = dropRef q.ticket (popHead (.trunk t) c s) := by
  simp only [departHead, hq]

end Good

/-- Settles O37: each good answer's judgement in the state after the reception; the transaction's end by its kind. -/
theorem goodAnswersEndTransaction : Obligations.GoodAnswersEndTransaction := by
  refine ⟨fun t h s x hr ha hx hk hrx => ?_, fun t h s x c n a q qs hr ha hx hk hrx hq => ?_, fun t s => ⟨fun x hx => ?_, settle_eq s t⟩⟩
  · have trunk : ((s.modTrunk t fun k => { k with rx := .none }).trunk t) = { s.trunk t with rx := .none } :=
      State.modTrunk_trunk_self _ _ _
    rw [exec_answer rfl hr hrx, judgeNil_good (by rw [trunk]; exact ha) (by rw [trunk]; exact hx) hk]
    rfl
  · have trunk : ((s.modTrunk t fun k => { k with rx := .none }).trunk t) = { s.trunk t with rx := .none } :=
      State.modTrunk_trunk_self _ _ _
    have activity : ((s.modTrunk t fun k => { k with rx := .none }).trunk t).activity = .delivering := by rw [trunk]; exact ha
    have txn : ((s.modTrunk t fun k => { k with rx := .none }).trunk t).txn = some x := by rw [trunk]; exact hx
    have counted (f : TrunkCounters → TrunkCounters) : countTrunk t f (s.modTrunk t fun k => { k with rx := .none }) =
        s.modTrunk t fun k => { k with rx := .none, counters := f k.counters } := by rw [countTrunk, State.modTrunk_modTrunk]
    refine ⟨fun hm => ?_, fun hm => ?_, ?_⟩
    · rw [exec_answer rfl hr hrx, judgeAck_good activity txn hk]
      rw [hm, goodAck_matching txn, counted, departHead_eq]
      rw [fifo_of_trunks (acknowledged_trunks _ _ _) (acknowledged_hostEgress _ _ _)]
      exact fifo_rewritten hq fun _ => by rfl
    · rw [exec_answer rfl hr hrx, judgeAck_good activity txn hk, goodAck_other txn _ hm, counted]
    · rw [exec_answer rfl hr hrx, judgeBusy_good activity txn hk, goodBusy, counted]
  · intro ends
    exact ⟨fun n hk => endTxn_ends hx (by rw [hk]; rfl), fun hk => endTxn_ends hx (by rw [hk]; rfl),
      fun d c n a hk => endTxn_ends hx (by rw [hk]; rfl), fun c n hk => endTxn_ends hx (by rw [hk]; rfl)⟩

end Sys2Proof.Machine
end


section
/-!
PROOFS. Bad answers, JOINs and the DATA header (02 R14 to R19, 04 R72, R80, 05 R97).
-/

namespace Sys2Proof.Machine

/-! ### Bad answers -/

section Bad

variable {s : State} {t : TrunkId} {x : Txn}

/-- The state in which a bad answer is judged, counted and with its reservation given back. -/
theorem badAnswer_eq (hx : (s.trunk t).txn = some x) : badAnswer t (s.modTrunk t fun k => { k with rx := .none }) =
    unanswered t (setHeld t none (giveBack x.held (s.modTrunk t fun k =>
      { k with rx := .none, counters := { k.counters with badFrames := countUp k.counters.badFrames } }))) := by
  rw [badAnswer, countTrunk, State.modTrunk_modTrunk, giveBackTxn_eq (x := x)]
  rw [State.modTrunk_trunk_self]
  exact hx

/-- The trunk's record in that state. -/
theorem badAnswer_trunk (hx : (s.trunk t).txn = some x) :
    ((setHeld t none (giveBack x.held (s.modTrunk t fun k =>
      { k with rx := .none, counters := { k.counters with badFrames := countUp k.counters.badFrames } }))).trunk t).txn =
        some { x with held := none } ∧
      ((setHeld t none (giveBack x.held (s.modTrunk t fun k =>
        { k with rx := .none, counters := { k.counters with badFrames := countUp k.counters.badFrames } }))).trunk t).activity =
          (s.trunk t).activity := by
  simp only [setHeld, State.modTrunk_trunk_self, trunk_of_trunks (giveBack_trunks _ _), hx, Option.map_some, and_self]

/-- A transaction without a reservation has none to give up. -/
theorem setHeld_none_id (hx : (s.trunk t).txn = some x) (hh : x.held = none) : setHeld t none s = s := by
  refine State.modTrunk_id_of_eq _ ?_
  generalize s.trunk t = k at hx
  obtain ⟨kind, phase, mark, held, confirm⟩ := x
  cases k
  cases hx
  cases hh
  rfl

/-- Frames that a POLL of station `n` does not invite. -/
theorem exec_notGood_poll {n : Num} {c : Instr} (hr : s.inReset = false) (hx : (s.trunk t).rx = .answer)
    (ha : (s.trunk t).activity = .polling) (ht : (s.trunk t).txn = some x) (hk : x.kind = .poll n)
    (hc : (c = .failedFrame t ∨ c = .truncatedFrame t) ∨ (∃ h, c = .ackFrame t h ∨ c = .busyFrame t h) ∨
      (∃ h p, c = .joinFrame t h p) ∨
      ∃ h, h.station ≠ n ∧ (c = .nilFrame t h ∨ ∃ d k data, c = .dataFrame t h d k data)) :
    exec c s = .next (finish (notGood t (s.modTrunk t fun k => { k with rx := .none }))) := by
  have activity : ((s.modTrunk t fun k => { k with rx := .none }).trunk t).activity = .polling := by
    rw [State.modTrunk_trunk_self]
    exact ha
  have polled : (s.modTrunk t fun k => { k with rx := .none }).polled t = some n :=
    polled_eq activity (by rw [State.modTrunk_trunk_self]; exact ht) hk
  have other {h : StationHead} (hn : h.station ≠ n) :
      ∀ m, (s.modTrunk t fun k => { k with rx := .none }).polled t = some m → h.station ≠ m := fun m hm => by
    rw [polled] at hm
    cases hm
    exact hn
  have none {h : StationHead} : ∀ d c a, (s.modTrunk t fun k => { k with rx := .none }).delivering t = some (d, c, a) → h.station ≠ d :=
    fun d c a hd => by
      rw [delivering_none (by rw [activity]; decide)] at hd
      cases hd
  rcases hc with (rfl | rfl) | ⟨h, rfl | rfl⟩ | ⟨h, p, rfl⟩ | ⟨h, hn, rfl | ⟨d, k, data, rfl⟩⟩
  · exact exec_answer rfl hr hx
  · exact exec_answer rfl hr hx
  · rw [exec_answer rfl hr hx, judgeAck_notGood none]
  · rw [exec_answer rfl hr hx, judgeBusy_notGood none]
  · rw [exec_answer rfl hr hx, judgeJoinFrame_notGood (by rw [activity]; decide)]
  · rw [exec_answer rfl hr hx, judgeNil_notGood (other hn)]
  · rw [exec_answer rfl hr hx, judgeData_notGood (other hn)]

/-- Frames that a DELIVER to station `d` does not invite. -/
theorem exec_notGood_deliver {d : Num} {k : Cls} {i a : Nat} {c : Instr} (hr : s.inReset = false) (hx : (s.trunk t).rx = .answer)
    (ha : (s.trunk t).activity = .delivering) (ht : (s.trunk t).txn = some x) (hk : x.kind = .deliver d k i a)
    (hc : (c = .failedFrame t ∨ c = .truncatedFrame t) ∨ (∃ h dest cls data, c = .dataFrame t h dest cls data) ∨
      (∃ h, c = .nilFrame t h) ∨ (∃ h p, c = .joinFrame t h p) ∨
      ∃ h, h.station ≠ d ∧ (c = .ackFrame t h ∨ c = .busyFrame t h)) :
    exec c s = .next (finish (notGood t (s.modTrunk t fun k => { k with rx := .none }))) := by
  have activity : ((s.modTrunk t fun k => { k with rx := .none }).trunk t).activity = .delivering := by
    rw [State.modTrunk_trunk_self]
    exact ha
  have delivering : (s.modTrunk t fun k => { k with rx := .none }).delivering t = some (d, k, a) :=
    delivering_eq activity (by rw [State.modTrunk_trunk_self]; exact ht) hk
  have other {h : StationHead} (hn : h.station ≠ d) :
      ∀ e c a, (s.modTrunk t fun k => { k with rx := .none }).delivering t = some (e, c, a) → h.station ≠ e := fun e c a he => by
    rw [delivering] at he
    cases he
    exact hn
  have none {h : StationHead} : ∀ m, (s.modTrunk t fun k => { k with rx := .none }).polled t = some m → h.station ≠ m :=
    fun m hm => by
      rw [polled_none (by rw [activity]; decide)] at hm
      cases hm
  rcases hc with (rfl | rfl) | ⟨h, e, cls, data, rfl⟩ | ⟨h, rfl⟩ | ⟨h, p, rfl⟩ | ⟨h, hn, rfl | rfl⟩
  · exact exec_answer rfl hr hx
  · exact exec_answer rfl hr hx
  · rw [exec_answer rfl hr hx, judgeData_notGood none]
  · rw [exec_answer rfl hr hx, judgeNil_notGood none]
  · rw [exec_answer rfl hr hx, judgeJoinFrame_notGood (by rw [activity]; decide)]
  · rw [exec_answer rfl hr hx, judgeAck_notGood (other hn)]
  · rw [exec_answer rfl hr hx, judgeBusy_notGood (other hn)]

/-- Frames that a CALL does not invite. -/
theorem exec_notGood_call {c : Instr} (hr : s.inReset = false) (hx : (s.trunk t).rx = .answer) (ha : (s.trunk t).activity = .calling)
    (hc : (c = .failedFrame t ∨ c = .truncatedFrame t) ∨ (∃ h dest cls data, c = .dataFrame t h dest cls data) ∨
      (∃ h, c = .nilFrame t h) ∨ ∃ h, c = .ackFrame t h ∨ c = .busyFrame t h) :
    exec c s = .next (finish (notGood t (s.modTrunk t fun k => { k with rx := .none }))) := by
  have activity : ((s.modTrunk t fun k => { k with rx := .none }).trunk t).activity = .calling := by
    rw [State.modTrunk_trunk_self]
    exact ha
  have nobody {h : StationHead} : ∀ m, (s.modTrunk t fun k => { k with rx := .none }).polled t = some m → h.station ≠ m :=
    fun m hm => by
      rw [polled_none (by rw [activity]; decide)] at hm
      cases hm
  have none {h : StationHead} : ∀ d c a, (s.modTrunk t fun k => { k with rx := .none }).delivering t = some (d, c, a) → h.station ≠ d :=
    fun d c a hd => by
      rw [delivering_none (by rw [activity]; decide)] at hd
      cases hd
  rcases hc with (rfl | rfl) | ⟨h, e, cls, data, rfl⟩ | ⟨h, rfl⟩ | ⟨h, rfl | rfl⟩
  · exact exec_answer rfl hr hx
  · exact exec_answer rfl hr hx
  · rw [exec_answer rfl hr hx, judgeData_notGood nobody]
  · rw [exec_answer rfl hr hx, judgeNil_notGood nobody]
  · rw [exec_answer rfl hr hx, judgeAck_notGood none]
  · rw [exec_answer rfl hr hx, judgeBusy_notGood none]

end Bad

/-- Settles O40: each frame that the transaction does not invite is judged alike. -/
theorem badAnswers : Obligations.BadAnswers := by
  intro t s x c hr hx hrx failed anyData anyNil anyAnswer anyJoin
  obtain ⟨txn, activity⟩ := badAnswer_trunk hx
  have own (a : Activity) (ha : (s.trunk t).activity = a) :
      ((s.modTrunk t fun k => { k with rx := .none }).trunk t).activity = a := by
    rw [State.modTrunk_trunk_self]
    exact ha
  refine ⟨fun n ha hk hc => ?_, fun d k n a ha hk hh hc => ?_, fun ha hc => ?_⟩
  · rw [exec_notGood_poll hr hrx ha hx hk hc, notGood_waiting (.inl (own _ ha)), badAnswer_eq hx, unanswered_poll (activity.trans ha) txn hk]
    rfl
  · rw [exec_notGood_deliver hr hrx ha hx hk hc, notGood_waiting (.inr (own _ ha)), badAnswer_eq hx,
      unanswered_deliver (activity.trans ha) txn hk, hh]
    have held : ((s.modTrunk t fun w =>
        { w with rx := .none, counters := { w.counters with badFrames := countUp w.counters.badFrames } }).trunk t).txn = some x := by
      rw [State.modTrunk_trunk_self]
      exact hx
    exact congrArg (fun v => Host.Outcome.next (finish (settle t (attemptFailed t k a (missed t d v))))) (setHeld_none_id held hh)
  · rw [exec_notGood_call hr hrx ha hc, notGood_calling (own _ ha), garbledCall, countTrunk, State.modTrunk_modTrunk]

/-! ### The DATA header -/

theorem headerAsks_iff (h : FrameHeader) (n : Num) : headerAsks h n = true ↔
    h.lead = 0xC3 ∧ h.station = n ∧ h.control &&& 0xCF = 0x09 ∧ 3 ≤ h.bodyLen.toNat ∧ h.bodyLen.toNat ≤ 243 := by
  simp only [headerAsks, Bool.and_eq_true, decide_eq_true_eq, within_iff, and_assoc]
  rfl

/-- Settles O35: the header's six tests. -/
theorem dataHeaderReserves : Obligations.DataHeaderReserves := by
  intro t h s x n hr ha hx hk hh hrx
  have held : s.heldOn t = none := by
    rw [State.heldOn, hx]
    exact hh
  refine ⟨fun asks => ?_, fun asks => ?_⟩
  · refine (whileRunning_running hr _).trans (congrArg _ ?_)
    simp only [dataHeader, polled_eq ha hx hk]
    rw [if_pos ⟨hrx, held, (headerAsks_iff h n).mpr asks⟩]
    rfl
  · refine (whileRunning_running hr _).trans (congrArg _ ?_)
    simp only [dataHeader, polled_eq ha hx hk]
    exact if_neg fun ⟨_, _, hasks⟩ => asks ((headerAsks_iff h n).mp hasks)

/-! ### JOIN -/

section Join

variable {s : State} {t : TrunkId} {n : Num} {p : Byte} {st : Station}

/-- A JOIN counted. -/
def joinCounted (t : TrunkId) (s : State) : State := countTrunk t (fun c => { c with joins := countUp c.joins }) s

theorem judgeJoin_ignored (hn : isStationNumber n = false) : judgeJoin t n p s =
    (countTrunk t (fun c => { c with badFrames := countUp c.badFrames }) s, .ignored) := by
  simp only [judgeJoin, hn, Bool.false_eq_true, if_false]

theorem judgeJoin_new_off (hn : isStationNumber n = true) (h : (joinCounted t s).station n = none)
    (hl : (s.tparams t).learn = 0) : judgeJoin t n p s = (joinCounted t s, .refuse .learningOff) := by
  have off : ((joinCounted t s).tparams t).learn = 0 := hl
  simp only [judgeJoin, hn, if_true]
  rw [← joinCounted, h]
  simp only [off, ne_eq, not_true_eq_false, decide_false, Bool.not_false, if_true]

theorem judgeJoin_new_full (hn : isStationNumber n = true) (h : (joinCounted t s).station n = none)
    (hl : (s.tparams t).learn ≠ 0) (hf : 192 ≤ s.dir.length) : judgeJoin t n p s =
      (countDir (fun c => { c with fullRefusals := countUp c.fullRefusals }) (raise (.directoryFull n t) (joinCounted t s)),
        .refuse .directoryFull) := by
  have on : ((joinCounted t s).tparams t).learn ≠ 0 := hl
  have full : (joinCounted t s).dirFull = true := (dirFull_iff s).mpr hf
  simp only [judgeJoin, hn, if_true]
  rw [← joinCounted, h]
  simp only [on, ne_eq, not_false_eq_true, decide_true, Bool.not_true, Bool.false_eq_true, if_false, full, if_true]

theorem judgeJoin_new_learned (hn : isStationNumber n = true) (h : (joinCounted t s).station n = none)
    (hl : (s.tparams t).learn ≠ 0) (hf : s.dir.length < 192) : judgeJoin t n p s =
      (wake t (countDir (fun c => { c with learned := countUp c.learned })
        (raise (.joined n t none p) (putStation n (joinedStation t p) (joinCounted t s)))), .receipt) := by
  have on : ((joinCounted t s).tparams t).learn ≠ 0 := hl
  have room : ¬(joinCounted t s).dirFull = true := fun full => by
    have := (dirFull_iff s).mp full
    omega
  simp only [judgeJoin, hn, if_true]
  rw [← joinCounted, h]
  simp only [on, ne_eq, not_false_eq_true, decide_true, Bool.not_true, Bool.false_eq_true, if_false, room]

theorem judgeJoin_dynamic_off {home : Option TrunkId} {seen : Bool} {due : Option Cause} (hn : isStationNumber n = true)
    (h : (joinCounted t s).station n = some st) (hk : st.kind = .dynamic home seen due) (hl : (s.tparams t).learn = 0) :
    judgeJoin t n p s = (joinCounted t s, .refuse .learningOff) := by
  have off : ((joinCounted t s).tparams t).learn = 0 := hl
  simp only [judgeJoin, hn, if_true]
  rw [← joinCounted, h]
  simp only [hk, off, ne_eq, not_true_eq_false, decide_false, Bool.not_false, if_true]

theorem judgeJoin_dynamic_home {seen : Bool} {due : Option Cause} (hn : isStationNumber n = true)
    (h : (joinCounted t s).station n = some st) (hk : st.kind = .dynamic (some t) seen due) (hl : (s.tparams t).learn ≠ 0) :
    judgeJoin t n p s = (refreshJoin t n st (.dynamic (some t) true none) p (joinCounted t s), .receipt) := by
  have on : ((joinCounted t s).tparams t).learn ≠ 0 := hl
  simp only [judgeJoin, hn, if_true]
  rw [← joinCounted, h]
  simp only [hk, on, ne_eq, not_false_eq_true, decide_true, Bool.not_true, Bool.false_eq_true, if_false, if_true]

theorem judgeJoin_dynamic_moved {home : Option TrunkId} {seen : Bool} {due : Option Cause} (hn : isStationNumber n = true)
    (h : (joinCounted t s).station n = some st) (hk : st.kind = .dynamic home seen due) (hl : (s.tparams t).learn ≠ 0)
    (hh : home ≠ some t) : judgeJoin t n p s =
      (wake t (wakeHome home (countDir (fun c => { c with moved := countUp c.moved })
        (raise (.joined n t home p) (putStation n (st.rejoined (.dynamic (some t) true none) p) (joinCounted t s))))), .receipt) := by
  have on : ((joinCounted t s).tparams t).learn ≠ 0 := hl
  simp only [judgeJoin, hn, if_true]
  rw [← joinCounted, h]
  simp only [hk, on, hh, ne_eq, not_false_eq_true, decide_true, Bool.not_true, Bool.false_eq_true, if_false]

theorem judgeJoin_pinned_home {cap : Option Nat} {pass : Bool} (hn : isStationNumber n = true)
    (h : (joinCounted t s).station n = some st) (hk : st.kind = .pinned t cap pass) :
    judgeJoin t n p s = (refreshJoin t n st (.pinned t cap pass) p (joinCounted t s), .receipt) := by
  simp only [judgeJoin, hn, if_true]
  rw [← joinCounted, h]
  simp only [hk, if_true]

theorem judgeJoin_pinned_off {home : TrunkId} {cap : Option Nat} {pass : Bool} (hn : isStationNumber n = true)
    (h : (joinCounted t s).station n = some st) (hk : st.kind = .pinned home cap pass) (hh : home ≠ t)
    (hl : (s.tparams t).learn = 0) : judgeJoin t n p s = (joinCounted t s, .refuse .learningOff) := by
  have off : ((joinCounted t s).tparams t).learn = 0 := hl
  simp only [judgeJoin, hn, if_true]
  rw [← joinCounted, h]
  simp only [hk, hh, off, ne_eq, not_true_eq_false, decide_false, Bool.not_false, if_true, if_false]

theorem judgeJoin_pinned_elsewhere {home : TrunkId} {cap : Option Nat} {pass : Bool} (hn : isStationNumber n = true)
    (h : (joinCounted t s).station n = some st) (hk : st.kind = .pinned home cap pass) (hh : home ≠ t)
    (hl : (s.tparams t).learn ≠ 0) : judgeJoin t n p s =
      (countDir (fun c => { c with conflicts := countUp c.conflicts }) (raise (.conflict n t home) (joinCounted t s)),
        .refuse .pinnedElsewhere) := by
  have on : ((joinCounted t s).tparams t).learn ≠ 0 := hl
  simp only [judgeJoin, hn, if_true]
  rw [← joinCounted, h]
  simp only [hk, hh, on, ne_eq, not_false_eq_true, decide_true, Bool.not_true, Bool.false_eq_true, if_false]

theorem refreshJoin_active (ha : st.state = .active) (k : StationKind) : refreshJoin t n st k p s = wake t (putStation n
    { st with kind := k, missed := 0, inMark := none, outMark := false, resync := false, profile := p } s) := by
  simp only [refreshJoin, ha]
  rw [if_neg (by decide), Station.rejoined, ← ha]

theorem refreshJoin_silent (hs : st.state = .silent) (k : StationKind) : refreshJoin t n st k p s =
    wake t (raise (.station n .active) (putStation n (st.rejoined k p) s)) := by
  simp only [refreshJoin, hs, if_true]

end Join

/-- Settles O39: the directory's judgement by kind of entry and LEARN, and the confirmation entered with it. -/
theorem joinJudged : Obligations.JoinJudged := by
  intro t h p s x hr ha hx hrx n confirms
  have activity : ((s.modTrunk t fun k => { k with rx := .none }).trunk t).activity = .calling := by
    rw [State.modTrunk_trunk_self]
    exact ha
  have run : exec (.joinFrame t h p) s = .next (finish (goodJoin t h p (s.modTrunk t fun k => { k with rx := .none }))) := by
    rw [exec_answer rfl hr hrx]
    exact congrArg (fun v => Host.Outcome.next (finish v)) (if_pos activity)
  refine ⟨fun hn => ?_, fun hn u hu => ?_⟩
  · rw [run, goodJoin, judgeJoin_ignored hn, countTrunk, State.modTrunk_modTrunk]
  · have counted : joinCounted t (s.modTrunk t fun k => { k with rx := .none }) = u := by
      rw [hu, joinCounted, countTrunk, State.modTrunk_modTrunk]
    have station {o : Option Station} (h : s.station n = o) :
        (joinCounted t (s.modTrunk t fun k => { k with rx := .none })).station n = o := h
    have refused {v : State} {r : Reason} (hj : judgeJoin t n p (s.modTrunk t fun k => { k with rx := .none }) = (v, .refuse r)) :
        confirms (some r) v := by
      change exec _ _ = _
      rw [run, goodJoin, hj]
      rfl
    have taken {v : State} (hj : judgeJoin t n p (s.modTrunk t fun k => { k with rx := .none }) = (v, .receipt)) :
        confirms none v := by
      change exec _ _ = _
      rw [run, goodJoin, hj]
      rfl
    refine ⟨fun hs => ⟨fun hl => ?_, fun hl hf => ?_, fun hl hf => ?_⟩,
      fun st home seen due hs hk => ⟨fun hl => ?_, fun hl hh hact => ?_, fun hl hh hsil => ?_, fun hl hh => ?_⟩,
      fun st home cap pass hs hk => ⟨fun hh hact => ?_, fun hh hsil => ?_, fun hh hl => ?_, fun hh hl => ?_⟩⟩
    · exact counted ▸ refused (judgeJoin_new_off hn (station hs) hl)
    · exact counted ▸ refused (judgeJoin_new_full hn (station hs) hl hf)
    · exact counted ▸ taken (judgeJoin_new_learned hn (station hs) hl hf)
    · exact counted ▸ refused (judgeJoin_dynamic_off hn (station hs) hk hl)
    · subst hh
      have := taken (judgeJoin_dynamic_home hn (station hs) hk hl)
      rwa [counted, refreshJoin_active hact] at this
    · subst hh
      have := taken (judgeJoin_dynamic_home hn (station hs) hk hl)
      rwa [counted, refreshJoin_silent hsil] at this
    · exact counted ▸ taken (judgeJoin_dynamic_moved hn (station hs) hk hl hh)
    · subst hh
      have := taken (judgeJoin_pinned_home hn (station hs) hk)
      rwa [counted, refreshJoin_active hact, ← hk] at this
    · subst hh
      have := taken (judgeJoin_pinned_home hn (station hs) hk)
      rwa [counted, refreshJoin_silent hsil, ← hk] at this
    · exact counted ▸ refused (judgeJoin_pinned_off hn (station hs) hk hh hl)
    · exact counted ▸ refused (judgeJoin_pinned_elsewhere hn (station hs) hk hh hl)

end Sys2Proof.Machine
end


section
/-!
PROOFS. The end of an event, the notices, and routing (06 R112 to R123, 08 R154, R157, 10 R192).
-/

namespace Sys2Proof.Machine

/-! ### The end of an event -/

/-- Settles O48: the end of an event is a chain of services. -/
theorem finishKeeps : Obligations.FinishKeeps := fun s =>
  have h := finish_services s
  ⟨h.pending, h.params, h.clock, h.straps, h.fltPins, h.inReset, h.aging, h.free, fun t => ⟨h.mode t, h.line t, h.bitRate t⟩,
    h.link.cache, h.link.restart, h.link.rx, h.link.credit, h.link.replies⟩

/-! ### Notices -/

section Raised

variable {f : NoticeFields} {s : State}

theorem noticeOn_iff (p : Params) (k : NoticeKind) : noticeOn p k = true ↔ k = .started ∨ p.enable.get k ≠ 0 := by
  simp [noticeOn]

theorem raise_off (h : noticeOn s.params f.kind = false) : raise f s = s := if_neg (by simp [h])

theorem upLost_eq (c : Byte) : upLost c = if c = 255 then 255 else c + 1 := by
  unfold upLost
  rw [show BitVec.allOnes 8 = (255 : BitVec 8) by decide]
  split
  · next h => exact h
  · rfl

theorem raise_dropped (h : noticeOn s.params f.kind = true) (full : 32 ≤ s.link.pendingNotices.length) : raise f s =
    s.modLink fun l =>
      { l with
        lost := if l.lost = 255 then 255 else l.lost + 1
        counters := { l.counters with noticesLost := countUp l.counters.noticesLost } } := by
  simp only [← upLost_eq]
  exact (if_pos h).trans (if_pos full)

theorem raise_queued (h : noticeOn s.params f.kind = true) (room : s.link.pendingNotices.length < 32) : raise f s =
    s.modLink fun l =>
      { l with pendingNotices := l.pendingNotices ++ [⟨l.noticeSeq, l.lost, f⟩], noticeSeq := l.noticeSeq + 1, lost := 0 } :=
  (if_pos h).trans (if_neg (Nat.not_le.mpr room))

end Raised

/-- Settles O47: a notice's three outcomes, and its message kind by kind. -/
theorem noticesRaised : Obligations.NoticesRaised := by
  refine ⟨fun f s => ⟨fun hk he => ?_, fun h => ⟨fun full => raise_dropped ((noticeOn_iff _ _).mpr h) full,
    fun room => raise_queued ((noticeOn_iff _ _).mpr h) room⟩⟩, ?_⟩
  · refine raise_off (Bool.eq_false_iff.mpr fun on => ?_)
    rcases (noticeOn_iff _ _).mp on with h | h
    · exact hk h
    · exact h he
  · intro seq lost n d t h profile k free c carries
    refine ⟨rfl, rfl, rfl, rfl, rfl, rfl, rfl, rfl, rfl, rfl, rfl, rfl, fun x hx => ?_, rfl, rfl, rfl, rfl⟩
    simp only [List.mem_cons, List.not_mem_nil, or_false] at hx
    rcases hx with rfl | rfl | rfl | rfl | rfl | rfl <;> exact ⟨rfl, rfl⟩

/-! ### Routing -/

section Route

variable {s : State} {arrival : Port} {source dest : Num} {cls : Byte}

theorem route_badHeader (h : 4 ≤ cls.toNat) : s.route arrival source dest cls = .error .badHeader := dif_neg (by omega)

theorem route_notJoined (h : cls.toNat < 4) (hk : s.sourceKnown arrival source = false) :
    s.route arrival source dest cls = .error .notJoined := by
  simp only [State.route, h, dif_pos, hk, Bool.false_eq_true, not_false_eq_true, if_true]

theorem route_self (h : cls.toNat < 4) (hk : s.sourceKnown arrival source = true) (hd : dest = source) :
    s.route arrival source dest cls = .error .self_ := by
  simp only [State.route, h, dif_pos, hk, not_true_eq_false, if_false, hd, if_true]

theorem route_surveyOnly (h : cls.toNat < 4) (hk : s.sourceKnown arrival source = true) (hd : dest ≠ source)
    (hs : s.fromSurvey arrival = true) (h0 : dest ≠ 0) : s.route arrival source dest cls = .error .surveyOnly := by
  simp only [State.route, h, dif_pos, hk, not_true_eq_false, if_false, hd, hs, true_and]
  exact if_pos h0

/-! The checks after the first four. -/

theorem route_unchosen {r : Reason} (h : cls.toNat < 4) (hk : s.sourceKnown arrival source = true) (hd : dest ≠ source)
    (hs : s.fromSurvey arrival = true → dest = 0) (hc : s.chooseEgresses arrival dest = .error r) :
    s.route arrival source dest cls = .error r := by
  have survey : ¬(s.fromSurvey arrival = true ∧ dest ≠ 0x0000#16) := fun ⟨hf, h0⟩ => h0 (hs hf)
  simp only [State.route, h, dif_pos, hk, not_true_eq_false, if_false, hd, survey, hc]

theorem route_chosen {needs : List Need} (h : cls.toNat < 4) (hk : s.sourceKnown arrival source = true) (hd : dest ≠ source)
    (hs : s.fromSurvey arrival = true → dest = 0) (hc : s.chooseEgresses arrival dest = .ok needs) :
    s.route arrival source dest cls =
      if needs.all fun n => s.hasRoom n.1 then .ok (⟨cls.toNat, h⟩, needs) else .error .queueFull := by
  have survey : ¬(s.fromSurvey arrival = true ∧ dest ≠ 0x0000#16) := fun ⟨hf, h0⟩ => h0 (hs hf)
  simp only [State.route, h, dif_pos, hk, not_true_eq_false, if_false, hd, survey, hc]

theorem hasRoom_iff (s : State) (e : Port) : s.hasRoom e = true ↔ s.entries e < s.queueLimit e := decide_eq_true_iff

theorem sourceKnown_trunk {t : TrunkId} : s.sourceKnown (.trunk t) source = true ↔ s.entry source ≠ none :=
  Option.isSome_iff_ne_none

theorem fromSurvey_trunk {t : TrunkId} : s.fromSurvey (.trunk t) = true ↔ (s.trunk t).mode = .survey := decide_eq_true_iff

/-! The egresses. -/

theorem orNoRoute_eq (needs : List Need) : orNoRoute needs = if needs = [] then .error .noRoute else .ok needs := rfl

theorem copies_eq (s : State) (set : Quad Bool) : s.copies set = ([0, 1, 2, 3] : List TrunkId).filterMap fun u =>
    if set.get u = true ∧ (s.trunk u).mode = .carry ∧ (s.trunk u).line = .sound then some (Port.trunk u, some Form.bcast)
    else none := by
  unfold State.copies
  congr 1
  funext u
  simp [State.carries]

theorem chooseEgresses_zero (h : dest = 0) : s.chooseEgresses arrival dest = .ok [(.host, none)] := if_pos h

theorem ne_zero_of_station (h : isStationNumber dest = true) : dest ≠ 0 := by
  rintro rfl
  exact absurd h (by decide)

theorem chooseEgresses_refused {st : Station} {t : TrunkId} {r : Reason} (hd : isStationNumber dest = true)
    (hs : s.station dest = some st) (hh : st.home = some t) (hr : s.homeTest st t arrival = some r) :
    s.chooseEgresses arrival dest = .error r := by
  have h0 : dest ≠ 0x0000#16 := ne_zero_of_station hd
  simp only [State.chooseEgresses, if_neg h0, hd, if_true, hs, hh, hr]

theorem chooseEgresses_home {st : Station} {t : TrunkId} (hd : isStationNumber dest = true)
    (hs : s.station dest = some st) (hh : st.home = some t) (hr : s.homeTest st t arrival = none) :
    s.chooseEgresses arrival dest = .ok [(.trunk t, some .deliver)] := by
  have h0 : dest ≠ 0x0000#16 := ne_zero_of_station hd
  simp only [State.chooseEgresses, if_neg h0, hd, if_true, hs, hh, hr]

/-- Whether a home trunk takes a DELIVER (06 R118). -/
def State.takesDeliver (s : State) (st : Station) (t : TrunkId) : Bool :=
  (s.trunk t).mode = .carry || ((s.trunk t).mode = .survey && st.kind.surveyPass)

theorem takesDeliver_iff (s : State) (st : Station) (t : TrunkId) : s.takesDeliver st t = true ↔
    ((s.trunk t).mode = .carry ∨ ((s.trunk t).mode = .survey ∧ st.kind.surveyPass = true)) := by
  simp [State.takesDeliver]

section HomeTest

variable {st : Station} {t : TrunkId}

theorem homeTest_noRoute (h : s.takesDeliver st t = false) : s.homeTest st t arrival = some .noRoute := by
  refine if_pos fun takes => ?_
  rw [(takesDeliver_iff s st t).mpr takes] at h
  cases h

theorem homeTest_lineDown (h : s.takesDeliver st t = true) (hl : (s.trunk t).line = .faulted) :
    s.homeTest st t arrival = some .lineDown :=
  (if_neg (not_not.mpr ((takesDeliver_iff s st t).mp h))).trans (if_pos (by rw [hl]; decide))

theorem homeTest_local (h : s.takesDeliver st t = true) (hl : (s.trunk t).line = .sound) (ha : arrival = .trunk t)
    (h0 : s.params.localTurn = 0) : s.homeTest st t arrival = some .local_ :=
  (if_neg (not_not.mpr ((takesDeliver_iff s st t).mp h))).trans ((if_neg (not_not.mpr hl)).trans (if_pos ⟨ha, h0⟩))

theorem homeTest_none (h : s.takesDeliver st t = true) (hl : (s.trunk t).line = .sound)
    (ha : arrival ≠ .trunk t ∨ s.params.localTurn ≠ 0) : s.homeTest st t arrival = none := by
  refine (if_neg (not_not.mpr ((takesDeliver_iff s st t).mp h))).trans ((if_neg (not_not.mpr hl)).trans (if_neg fun ⟨hp, h0⟩ => ?_))
  rcases ha with ha | ha
  · exact ha hp
  · exact ha h0

end HomeTest

theorem chooseEgresses_unknown (hd : isStationNumber dest = true) (hs : ∀ st, s.station dest = some st → st.home = none) :
    s.chooseEgresses arrival dest = s.routeUnknown := by
  have h0 : dest ≠ 0x0000#16 := ne_zero_of_station hd
  simp only [State.chooseEgresses, if_neg h0, hd, if_true]
  cases hst : s.station dest with
  | none => rfl
  | some st => simp only [hs st hst]

theorem not_station_of_group (h : isGroupNumber dest = true) : isStationNumber dest = false := by
  simp only [isGroupNumber, Bool.and_eq_true, decide_eq_true_eq] at h
  simp only [isStationNumber, Bool.and_eq_false_iff, decide_eq_false_iff_not]
  right
  bv_omega

theorem ne_zero_of_group (h : isGroupNumber dest = true) : dest ≠ 0 := by
  rintro rfl
  exact absurd h (by decide)

theorem chooseEgresses_noGroup (hd : isGroupNumber dest = true) (hg : s.group dest = none) :
    s.chooseEgresses arrival dest = .error .noRoute := by
  have h0 : dest ≠ 0x0000#16 := ne_zero_of_group hd
  simp only [State.chooseEgresses, if_neg h0, not_station_of_group hd, Bool.false_eq_true, if_false, hd, if_true, hg]

theorem chooseEgresses_group {m : Members} (hd : isGroupNumber dest = true) (hg : s.group dest = some m) :
    s.chooseEgresses arrival dest = orNoRoute (s.copies m.trunks ++ if m.host then [(.host, none)] else []) := by
  have h0 : dest ≠ 0x0000#16 := ne_zero_of_group hd
  simp only [State.chooseEgresses, if_neg h0, not_station_of_group hd, Bool.false_eq_true, if_false, hd, if_true, hg]

theorem chooseEgresses_broadcast (hd : dest = 0xFFFF) : s.chooseEgresses arrival dest =
    orNoRoute (s.copies (Quad.all true) ++ if s.params.broadcastToHost ≠ 0 then [(.host, none)] else []) := by
  subst hd
  have h0 : ¬(0xFFFF : Num) = 0x0000#16 := by decide
  have station : isStationNumber 0xFFFF = false := by decide
  have group : isGroupNumber 0xFFFF = false := by decide
  simp only [State.chooseEgresses, if_neg h0, station, group, Bool.false_eq_true, if_false]

end Route

/-- Settles O50: the six checks by the arrival, and the egresses by the kind of destination. -/
theorem routingChecks : Obligations.RoutingChecks := by
  refine ⟨fun s arrival source dest cls => ⟨route_badHeader, fun t ha hc he => ?_, fun hc hk hd => ?_, fun t ha hc he hd hm h0 => ?_,
    fun ha hc hd => ?_⟩, fun s arrival dest => ?_⟩
  · subst ha
    refine route_notJoined hc (Bool.eq_false_iff.mpr fun known => ?_)
    exact sourceKnown_trunk.mp known he
  · refine route_self hc ?_ hd
    cases arrival with
    | host => rfl
    | trunk t => exact sourceKnown_trunk.mpr (hk t rfl)
  · subst ha
    exact route_surveyOnly hc (sourceKnown_trunk.mpr he) hd (fromSurvey_trunk.mpr hm) h0
  · have checked : s.sourceKnown arrival source = true ∧ (s.fromSurvey arrival = true → dest = 0) := by
      rcases ha with rfl | ⟨t, rfl, he, hm⟩
      · exact ⟨rfl, fun h => by cases h⟩
      · exact ⟨sourceKnown_trunk.mpr he, fun h => hm (fromSurvey_trunk.mp h)⟩
    obtain ⟨known, survey⟩ := checked
    refine ⟨fun r hr => route_unchosen hc known hd survey hr, fun needs hn => ⟨fun room => ?_, fun ⟨x, hx, full⟩ => ?_⟩⟩
    · rw [route_chosen hc known hd survey hn, if_pos]
      exact List.all_eq_true.mpr fun x hx => (hasRoom_iff s x.1).mpr (room x hx)
    · rw [route_chosen hc known hd survey hn, if_neg]
      intro all
      have := (hasRoom_iff s x.1).mp (List.all_eq_true.mp all x hx)
      omega
  · intro copies goes
    have copied (set : Quad Bool) : s.copies set = copies set := copies_eq s set
    refine ⟨chooseEgresses_zero, fun st t hd hs hh => ?_, fun hd hs => ⟨fun h0 => ?_, fun h1 => ?_, fun h2 => ?_⟩,
      fun hd => ⟨chooseEgresses_noGroup hd, fun m hg => ?_⟩, fun hd => ?_⟩
    · intro carries
      exact ⟨fun hc => chooseEgresses_refused hd hs hh (homeTest_noRoute hc),
        fun hc hl => chooseEgresses_refused hd hs hh (homeTest_lineDown hc hl),
        fun hc hl ha h0 => chooseEgresses_refused hd hs hh (homeTest_local hc hl ha h0),
        fun hc hl ha => chooseEgresses_home hd hs hh (homeTest_none hc hl ha)⟩
    · rw [chooseEgresses_unknown hd hs, State.routeUnknown, if_pos h0]
    · rw [chooseEgresses_unknown hd hs, State.routeUnknown, h1]
      rfl
    · change s.chooseEgresses arrival dest = _
      rw [chooseEgresses_unknown hd hs, State.routeUnknown, h2, ← copied, ← orNoRoute_eq]
      rfl
    · change s.chooseEgresses arrival dest = _
      rw [chooseEgresses_group hd hg, ← copied, ← orNoRoute_eq]
    · change s.chooseEgresses arrival dest = _
      rw [chooseEgresses_broadcast hd, ← copied, ← orNoRoute_eq]

end Sys2Proof.Machine
end


section
/-!
PROOFS. The operations of the store: reservation, release, the drop of a reference, a FILLING ticket (03 R43 to R56).
-/

namespace Sys2Proof.Machine

/-! ### Reservation -/

section Reserve

variable {s : State} {p : Port} {source : Num} {length : Nat}

theorem reserve_failed {r : Reason} (h : s.reserveFailure p length = some r) :
    reserve p source length s = (countFailure r s, .failed r) := by
  rw [reserve, h]

theorem reserve_granted (h : s.reserveFailure p length = none) :
    reserve p source length s = (testLow (s.setStore (s.store.grant s.lowestFree p source length)), .granted s.lowestFree) := by
  rw [reserve, h]

/-- The tests of a reservation in their order (03 R45). -/
theorem reserveFailure_pool (h : s.store.freeBlocks < blockCount length) : s.reserveFailure p length = some .pool := if_pos h

theorem reserveFailure_tickets (room : blockCount length ≤ s.store.freeBlocks) (h : 160 ≤ s.lowestFree) :
    s.reserveFailure p length = some .tickets :=
  (if_neg (Nat.not_lt.mpr room)).trans (if_pos h)

theorem reserveFailure_portLimit (room : blockCount length ≤ s.store.freeBlocks) (free : s.lowestFree < 160)
    (h : s.portCap p < s.store.occ.get p + blockCount length) : s.reserveFailure p length = some .portLimit :=
  (if_neg (Nat.not_lt.mpr room)).trans ((if_neg (Nat.not_le.mpr free)).trans (if_pos h))

/-- A reservation that passes every test (03 R45). -/
theorem reserveFailure_passes (room : blockCount length ≤ s.store.freeBlocks) (free : s.lowestFree < 160)
    (h : s.store.occ.get p + blockCount length ≤ s.portCap p) : s.reserveFailure p length = none :=
  (if_neg (Nat.not_lt.mpr room)).trans ((if_neg (Nat.not_le.mpr free)).trans (if_neg (Nat.not_lt.mpr h)))

theorem length_putTicketInto_new (k : Ticket) {l : List Ticket} (h : ∀ x ∈ l, x.num ≠ k.num) :
    (putTicketInto k l).length = l.length + 1 := by
  have := sum_putTicketInto_new (fun _ => 1) k h
  simpa using this

theorem testLow_ticket (u : State) (n : Nat) : (testLow u).ticket n = u.ticket n := by
  unfold State.ticket
  rw [testLow_store]

theorem testLow_dir (u : State) : (testLow u).dir = u.dir := by
  unfold testLow
  split
  · rw [raise_dir, State.setStore_dir]
  · rfl

/-- A grant's notice of a low pool, and nothing else, changes the host link. -/
theorem testLow_link {u : State} (params : u.params = s.params) (link : u.link = s.link) (low : u.store.low = s.store.low) :
    (testLow u).link = (if s.store.low = false ∧ u.store.freeBlocks < s.params.poolLow
      then raise (.pool true u.store.freeBlocks) s else s).link := by
  unfold testLow
  rw [params, low]
  by_cases h : s.store.low = false ∧ u.store.freeBlocks < s.params.poolLow
  · rw [if_pos h, if_pos h.symm]
    exact raise_link_congr _ params link
  · rw [if_neg h, if_neg (fun hh => h hh.symm), link]

/-- A reservation granted: the store as it then is (03 R44, R53, R56). -/
theorem reserve_grants (room : blockCount length ≤ s.store.freeBlocks) (free : s.lowestFree < 160)
    (cap : s.store.occ.get p + blockCount length ≤ s.portCap p) (law : s.store.ticketLaw) :
    ∃ u, reserve p source length s = (u, .granted s.lowestFree) ∧ s.ticket s.lowestFree = none ∧
      (∀ n, n < s.lowestFree → s.ticket n ≠ none) ∧
      u.ticket s.lowestFree = some ⟨s.lowestFree, source, none, none, p, length, blockCount length, [], 0, none⟩ ∧
      (∀ n, n ≠ s.lowestFree → u.ticket n = s.ticket n) ∧
      u.store.freeBlocks = s.store.freeBlocks - blockCount length ∧
      u.store.occ.get p = s.store.occ.get p + blockCount length ∧
      (∀ o, o ≠ p → u.store.occ.get o = s.store.occ.get o) ∧
      u.store.low = (s.store.low || u.store.freeBlocks < s.params.poolLow) ∧
      u.store.leastFree = min s.store.leastFree (s.store.freeBlocks - blockCount length) ∧
      u.store.peakTickets = max s.store.peakTickets (s.store.tickets.length + 1) ∧
      u.store.poolFails = s.store.poolFails ∧ u.store.ticketFails = s.store.ticketFails ∧
      u.store.portLimitFails = s.store.portLimitFails ∧ u.dir = s.dir ∧
      u.link = (if s.store.low = false ∧ s.store.freeBlocks - blockCount length < s.params.poolLow
        then raise (.pool true (s.store.freeBlocks - blockCount length)) s else s).link := by
  have rising := law.1
  have unused := ne_lowestFrom rising (fun _ _ => Nat.zero_le _)
  refine ⟨_, reserve_granted (reserveFailure_passes room free cap), ticket_lowestFree rising,
    fun n hn => find_below_lowestFrom (Nat.zero_le n) hn, ?_, fun n hn => ?_, ?_, ?_, fun o ho => ?_, ?_, ?_, ?_, ?_, ?_, ?_, ?_, ?_⟩
  · rw [testLow_ticket, granted_ticket, if_pos rfl, grantedTicket]
  · rw [testLow_ticket, granted_ticket, if_neg hn]
  · rw [testLow_store]
    rfl
  · rw [testLow_store]
    exact (occ_put_get _ _ _ _).trans (if_pos rfl)
  · rw [testLow_store]
    exact (occ_put_get _ _ _ _).trans (if_neg ho)
  · rw [testLow_store]
    rfl
  · rw [testLow_store]
    rfl
  · rw [testLow_store]
    exact congrArg (max s.store.peakTickets) (length_putTicketInto_new (grantedTicket s p source length) unused)
  · rw [testLow_store]
    rfl
  · rw [testLow_store]
    rfl
  · rw [testLow_store]
    rfl
  · exact testLow_dir _
  · exact testLow_link rfl rfl rfl

end Reserve

/-! ### Release -/

section Release

variable {s : State} {n : Nat} {k : Ticket}

/-- The test for a recovered pool, its threshold read from a state with the same parameters. -/
theorem testRecovered_of_params {v : State} (params : v.params = s.params) : testRecovered v =
    if s.params.poolLow + 32 < v.store.freeBlocks ∧ v.store.low = true then
      raise (.pool false v.store.freeBlocks) (v.setStore { v.store with low := false })
    else v := by
  rw [← params]
  rfl

/-- The store with ticket `n` FREE (03 R49, R52). -/
theorem release_of_ticket (h : s.ticket n = some k) : s.store.release k =
    { s.store with
      tickets := s.store.tickets.filter fun x => x.num ≠ n
      freeBlocks := s.store.freeBlocks + k.blocks
      occ := s.store.occ.put k.port (s.store.occ.get k.port - k.blocks) } := by
  unfold Store.release
  rw [ticket_num h]

theorem releaseFilling_eq (h : s.ticket n = some k) : releaseFilling n s = testRecovered (s.setStore (s.store.release k)) := by
  rw [releaseFilling, h]

theorem dropRef_last (h : s.ticket n = some k) (last : k.refs ≤ 1) :
    dropRef n s = testRecovered (reportRelease k (s.setStore (s.store.release k))) := by
  rw [dropRef, h]
  exact if_pos last

theorem dropRef_more (h : s.ticket n = some k) (more : 1 < k.refs) :
    dropRef n s = putTicket { k with refs := k.refs - 1 } s := by
  rw [dropRef, h]
  exact if_neg (by omega)

theorem removeStation_params (m : Num) (st : Station) (c : Cause) (u : State) : (removeStation m st c u).params = u.params := by
  unfold removeStation
  rw [wakeHome_params]
  split
  · exact raise_params _ _
  · exact raise_params _ _

theorem releaseSource_params (m : Num) (b : Nat) (u : State) : (releaseSource m b u).params = u.params := by
  unfold releaseSource
  split
  · rfl
  · simp only
    split
    · split
      · exact removeStation_params _ _ _ _
      · split
        · exact wakeHome_params _ _
        · rfl
    · split
      · exact wakeHome_params _ _
      · rfl

theorem reportRelease_params (u : State) : (reportRelease k u).params = u.params := by
  unfold reportRelease
  split
  · exact releaseSource_params _ _ _
  · rfl

theorem reportRelease_host (h : k.port = .host) (u : State) : reportRelease k u = u := by
  rw [reportRelease, h]

theorem reportRelease_trunk (h : k.port ≠ .host) (u : State) : reportRelease k u = releaseSource k.source k.blocks u := by
  unfold reportRelease
  split
  · rfl
  · next hh => exact absurd hh h

theorem filter_putInto (e : DirEntry) (l : List DirEntry) :
    (putInto e l).filter (fun x => x.num ≠ e.num) = l.filter fun x => x.num ≠ e.num := by
  induction l with
  | nil => simp [putInto]
  | cons y ys ih =>
    simp only [putInto]
    split
    · simp
    · split
      · next h => simp [← h]
      · rw [List.filter_cons, List.filter_cons, ih]

theorem dropEntry_putStation (m : Num) (st : Station) (u : State) : dropEntry m (putStation m st u) = dropEntry m u := by
  unfold dropEntry putStation
  rw [State.setDir_setDir, State.setDir_dir]
  exact congrArg u.setDir (filter_putInto ⟨m, .station st⟩ u.dir)

end Release

/-! ### The source of a released ticket -/

section Source

variable {u : State} {m : Num} {st : Station} {b : Nat}

theorem releaseSource_none (h : u.station m = none) : releaseSource m b u = u := by
  rw [releaseSource, h]

/-- An overdue entry that holds no more blocks is removed (03 R52, 02 R24). -/
theorem releaseSource_removed {cause : Cause} (h : u.station m = some st) (overdue : st.kind.overdue = some cause)
    (none_held : st.held - b = 0) : releaseSource m b u = wakeHome st.home
      (let g := raise (.gone m cause) (dropEntry m u)
      if cause = .aged then countDir (fun c => { c with aged := countUp c.aged }) g else g) := by
  unfold releaseSource
  rw [h]
  simp only [overdue, if_pos none_held]
  rw [removeStation, dropEntry_putStation]

/-- Another entry stays, its held blocks lowered. -/
theorem releaseSource_stays (h : u.station m = some st) (stays : st.kind.overdue = none ∨ st.held - b ≠ 0) :
    releaseSource m b u = if u.capOf st ≤ st.held ∧ st.held - b < u.capOf st
      then wakeHome st.home (putStation m { st with held := st.held - b } u)
      else putStation m { st with held := st.held - b } u := by
  unfold releaseSource
  rw [h]
  simp only
  split
  · next overdue =>
    rw [if_neg (stays.resolve_left (by rw [overdue]; exact nofun))]
  · rfl

end Source

/-! ### The obligation -/

section Drop

variable {s : State} {n : Nat} {k : Ticket}

/-- A reference dropped that is not the last. -/
theorem dropRef_keeps_ticket (h : s.ticket n = some k) (more : 1 < k.refs) :
    (dropRef n s).ticket n = some { k with refs := k.refs - 1 } ∧ (∀ m, m ≠ n → (dropRef n s).ticket m = s.ticket m) ∧
      (dropRef n s).store.freeBlocks = s.store.freeBlocks ∧ (dropRef n s).store.occ = s.store.occ ∧
      (dropRef n s).dir = s.dir ∧ (dropRef n s).link = s.link := by
  have value := ticket_putTicket_of (k' := { k with refs := k.refs - 1 }) h rfl
  rw [dropRef_more h more]
  exact ⟨(value n).trans (if_pos rfl), fun m hm => (value m).trans (if_neg hm), rfl, rfl, rfl, rfl⟩

theorem dropRef_last_store (h : s.ticket n = some k) (last : k.refs ≤ 1) : (dropRef n s).store =
    { s.store.release k with
      low := s.store.low && s.store.freeBlocks + k.blocks ≤ s.params.poolLow + 32 } := by
  rw [dropRef_last h last, testRecovered_store, reportRelease_store, reportRelease_params]
  rfl

theorem dropRef_last_ticket (h : s.ticket n = some k) (last : k.refs ≤ 1) (m : Nat) :
    (dropRef n s).ticket m = if m = n then none else s.ticket m := by
  rw [dropRef_ticket, h, Option.bind_some, Ticket.dropped, if_neg Nat.one_ne_zero, if_pos last]

end Drop

/-- Settles O46: the branches of a reservation, of a release with what it reports of the source, and of a FILLING ticket. -/
theorem storeOperations : Obligations.StoreOperations := by
  refine ⟨fun p source length b s hb => ?_, fun n k s hk => ?_, fun n s => ⟨rfl, fun _ => rfl, rfl, fun k dest cls data hk => ⟨?_, ?_⟩⟩⟩
  · have hb : b = blockCount length := hb
    subst hb
    exact ⟨fun h => reserve_failed (reserveFailure_pool h),
      fun room h => reserve_failed (reserveFailure_tickets room h),
      fun room free h => reserve_failed (reserveFailure_portLimit room free h),
      fun room free cap law => reserve_grants room free cap law⟩
  · intro r settled
    have hr : s.setStore (s.store.release k) = r := congrArg s.setStore (release_of_ticket hk)
    have hset : ∀ v : State, v.params = s.params → testRecovered v = settled v := fun v hv => testRecovered_of_params hv
    have dropped : k.refs ≤ 1 → dropRef n s = settled (reportRelease k r) := fun last => by
      rw [dropRef_last hk last, hr]
      exact hset _ (reportRelease_params r)
    refine ⟨by rw [releaseFilling_eq hk, hr]; exact hset r rfl, fun more => dropRef_keeps_ticket hk more, fun last => ?_⟩
    have store := dropRef_last_store hk last
    refine ⟨(dropRef_last_ticket hk last n).trans (if_pos rfl), fun m hm => (dropRef_last_ticket hk last m).trans (if_neg hm),
      by rw [store]; rfl, ?_, by rw [store]; rfl, fun hp => ?_, fun hp hst => ?_, fun st hp hst => ?_⟩
    · rw [store]
      exact (occ_put_get _ _ _ _).trans (if_pos rfl)
    · rw [dropped last, reportRelease_host hp]
    · rw [dropped last, reportRelease_trunk hp, releaseSource_none (u := r) hst]
    · have source : dropRef n s = settled (releaseSource k.source k.blocks r) := by
        rw [dropped last, reportRelease_trunk hp]
      refine ⟨fun cause overdue none_held => ?_, fun stays => ⟨fun below => ?_, fun same => ?_⟩⟩
      · rw [source, releaseSource_removed (u := r) hst overdue none_held]
      · rw [source, releaseSource_stays (u := r) hst stays]
        exact congrArg settled (if_pos below)
      · rw [source, releaseSource_stays (u := r) hst stays]
        exact congrArg settled (if_neg (by rintro ⟨h1, h2⟩; exact same.elim (Nat.not_lt.mpr h1) (Nat.not_le.mpr h2)))
  · exact fillTicket_eq hk dest cls data
  · exact fun m => fillTicket_ticket hk dest cls data m

end Sys2Proof.Machine
end


section
/-!
PROOFS. Accepted telegrams: the end of a SEND and a DATA judged (03 R50, 06 R128, 08 R153, 05 R95).
-/

namespace Sys2Proof.Machine

/-! ### What an acceptance writes -/

section Posted

/-- An acceptance's entries and its ticket: an entry at the tail of the class on each egress needed, the ticket STORED, the IDLE
controllers of those egresses woken, the rest kept (06 R128, 03 R50). -/
structure Posted (n : Nat) (c : Cls) (needs : List Need) (u w : State) : Prop where
  tail : ∀ x ∈ needs, w.fifo x.1 c = u.fifo x.1 c ++ [⟨n, x.2, 0, false, false⟩]
  others : ∀ e k, (k ≠ c ∨ e ∉ needs.map Prod.fst) → w.fifo e k = u.fifo e k
  stored : ∀ k, u.ticket n = some k → w.ticket n = some { k with refs := needs.length, storedAt := some (u.clock / 10) }
  tickets : ∀ m, m ≠ n → w.ticket m = u.ticket m
  free : w.store.freeBlocks = u.store.freeBlocks
  dir : w.dir = u.dir
  link : w.link = u.link
  wakes : ∀ t, w.wakes.get t = (u.wakes.get t || ((u.trunk t).activity = .idle && (needs.map Prod.fst).contains (.trunk t)))

/-- The part of an acceptance that charges no source. -/
def posted (n : Nat) (c : Cls) (needs : List Need) (u : State) : State := storeTicket n needs.length (appendAll n c needs u)

theorem posted_posted (n : Nat) (c : Cls) {needs : List Need} (distinct : (needs.map Prod.fst).Nodup) (u : State) :
    Posted n c needs u (posted n c needs u) := by
  have appended := appendAll_appended (s := u) n c needs
  have queues : ∀ e k, (posted n c needs u).fifo e k = (appendAll n c needs u).fifo e k := fun e k =>
    fifo_of_trunks (storeTicket_trunks _ _ _) (storeTicket_hostEgress _ _ _) e k
  have before := ticket_congr appended.store
  refine ⟨fun x hx => (queues x.1 c).trans (appendAll_fifo n c needs distinct x hx),
    fun e k h => (queues e k).trans (appendAll_fifo_other n c needs e k h), fun k hk => ?_,
    fun m hm => (storeTicket_ticket_of_ne needs.length hm).trans (before m), ?_, (storeTicket_dir _ _).trans appended.dir,
    (storeTicket_link _ _).trans appended.link, fun t => ?_⟩
  · rw [posted, storeTicket_ticket ((before n).trans hk), if_pos rfl, State.timebase, appended.clock]
    rfl
  · rw [posted, storeTicket_free, appended.store]
  · rw [posted, storeTicket_wakes, appendAll_wakes]

variable {s : State} {p : Port} {m : Num} {b : Bool} {n : Nat} {d : Num} {cls : Byte} {c : Cls} {needs : List Need} {r : Reason}

theorem routeArrival_accepted (h : s.route p m d cls = .ok (c, needs)) :
    routeArrival p m b n d cls s = (chargeArrival p m b (s.ticketBlocks n) (posted n c needs s), none) := by
  rw [routeArrival, h]
  rfl

theorem routeArrival_refused (h : s.route p m d cls = .error r) : routeArrival p m b n d cls s = (releaseFilling n s, some r) := by
  rw [routeArrival, h]

end Posted

/-! ### The end of a SEND -/

section Send

variable {s v : State} {seq : Byte} {body : List Byte}

theorem reserve_clock_restart (p : Port) (m : Num) (l : Nat) (s : State) :
    (reserve p m l s).1.clock = s.clock ∧ (reserve p m l s).1.link.restart = s.link.restart := by
  unfold reserve
  split
  · next r _ => exact ⟨(countFailure_services s r).clock, (countFailure_services s r).restart⟩
  · have kept := testLow_services (s.setStore (s.store.grant s.lowestFree p m l))
    exact ⟨kept.clock, kept.restart⟩

/-- The state with the arrival's bytes in its ticket, where one was granted (03 R48). -/
def heldFilled (h : Held) (dest : Num) (cls : Byte) (data : List Byte) (s : State) : State :=
  match h with
  | .granted n => fillTicket n dest cls data s
  | .failed _ => s

theorem fillArrival_link (body : List Byte) (s : State) : (fillArrival body s).link = s.link := by
  unfold fillArrival
  split
  · split
    · split
      · exact fillTicket_link _ _ _ _ _
      · rfl
    · rfl
  all_goals rfl

theorem fillArrival_inReset (body : List Byte) (s : State) : (fillArrival body s).inReset = s.inReset :=
  (fillArrival_services s body).inReset

/-- A SEND is taken in the state that holds what its body brought. -/
theorem takes_fillArrival (h : s.takes 0x1A seq body) : (fillArrival body s).takes 0x1A seq body := by
  unfold State.takes State.isReplay at h ⊢
  rw [fillArrival_link, fillArrival_inReset]
  exact h

theorem exec_send (h : s.inReset = false) : exec (.send seq body) s =
    whileRunning (fillArrival body s) (request 0x1A seq body dropArrival (runSend body)) := by
  rw [whileRunning_running ((fillArrival_inReset body s).trans h)]
  exact whileRunning_running h _

theorem exec_send_done {u : State} {answer : List Byte} (ht : s.takes 0x1A seq body)
    (run : runSend body (countIn (fillArrival body s)) = (u, .done answer)) (hr : u.link.restart = none) :
    exec (.send seq body) s = .next (answered 0x1A seq body ⟨0x41, seq, answer⟩ u) := by
  rw [exec_send ht.1, request_done (takes_fillArrival ht) run hr]

theorem exec_send_failed {u : State} {e : Failure} (ht : s.takes 0x1A seq body)
    (run : runSend body (countIn (fillArrival body s)) = (u, .failed e)) (hr : u.link.restart = none) :
    exec (.send seq body) s = .next (answered 0x1A seq body ⟨0x42, seq, [e.code, e.detail]⟩ u) := by
  rw [exec_send ht.1, request_failed (takes_fillArrival ht) run hr]

theorem runSend_fits {hi lo cls : Byte} {data : List Byte} (h : data.length ≤ 240) (s : State) :
    runSend (hi :: lo :: cls :: data) s = sendTelegram (numOfBytes hi lo) cls data s := if_pos h

theorem runSend_badBody (h : body.length < 3 ∨ 243 < body.length) (s : State) :
    runSend body s = (dropArrival s, .failed .badBody) := by
  unfold runSend
  split
  · next hi lo cls data =>
    simp only [List.length_cons] at h
    exact if_neg (show ¬data.length ≤ 240 by omega)
  · rfl

/-- A reservation granted or failed at the header is what the SEND holds at its end, a granted one filled. -/
theorem sendArrival_headed {hi lo cls : Byte} {data : List Byte} {h : Held}
    (rx : s.link.rx = .collecting (data.length + 3) (some h)) :
    sendArrival (numOfBytes hi lo) cls data (countIn (fillArrival (hi :: lo :: cls :: data) s)) =
      (heldFilled h (numOfBytes hi lo) cls data ((countIn s).modLink fun l => { l with rx := .hunting }), h) := by
  have rx' : (countIn (fillArrival (hi :: lo :: cls :: data) s)).link.rx = .collecting (data.length + 3) (some h) := by
    change (fillArrival _ s).link.rx = _
    rw [fillArrival_link, rx]
  simp only [sendArrival, rx', if_true]
  cases h with
  | granted n =>
    simp only [fillArrival, rx, if_true, heldFilled, countIn, countLink, fillTicket_modLink]
  | failed r =>
    simp only [fillArrival, rx, heldFilled]

/-- A SEND whose header asked for none asks at its end. -/
theorem sendArrival_late {hi lo cls : Byte} {data : List Byte} {h : Held}
    (rx : s.link.rx = .hunting ∨ ∃ m, s.link.rx = .collecting m none)
    (asked : reserve .host 0 data.length ((countIn s).modLink fun l => { l with rx := .hunting }) = (v, h)) :
    sendArrival (numOfBytes hi lo) cls data (countIn (fillArrival (hi :: lo :: cls :: data) s)) =
      (heldFilled h (numOfBytes hi lo) cls data v, h) := by
  have same : fillArrival (hi :: lo :: cls :: data) s = s := by
    rcases rx with rx | ⟨m, rx⟩ <;> simp only [fillArrival, rx]
  have dropped : dropArrival (countIn s) = (countIn s).modLink fun l => { l with rx := .hunting } := by
    rcases rx with rx | ⟨m, rx⟩ <;> simp only [dropArrival, show (countIn s).link.rx = s.link.rx from rfl, rx, giveBack]
  have late : sendArrival (numOfBytes hi lo) cls data (countIn s) = lateArrival (numOfBytes hi lo) cls data (countIn s) := by
    rcases rx with rx | ⟨m, rx⟩ <;> simp only [sendArrival, show (countIn s).link.rx = s.link.rx from rfl, rx]
  rw [same, late, lateArrival, dropped, asked]
  cases h <;> rfl

theorem sendTelegram_failed {dest : Num} {cls : Byte} {data : List Byte} {r : Reason}
    (h : sendArrival dest cls data s = (v, .failed r)) : sendTelegram dest cls data s = (v, .failed (.refused r)) := by
  rw [sendTelegram, h]

theorem sendTelegram_refused {dest : Num} {cls : Byte} {data : List Byte} {n : Nat} {r : Reason}
    (h : sendArrival dest cls data s = (v, .granted n)) (route : v.route .host 0 dest cls = .error r) :
    sendTelegram dest cls data s = (releaseFilling n v, .failed (.refused r)) := by
  rw [sendTelegram, h]
  simp only [routeArrival_refused route]

theorem sendTelegram_accepted {dest : Num} {cls : Byte} {data : List Byte} {n : Nat} {c : Cls} {needs : List Need}
    (h : sendArrival dest cls data s = (v, .granted n)) (route : v.route .host 0 dest cls = .ok (c, needs)) :
    sendTelegram dest cls data s =
      (countLink (fun k => { k with telegramsIn := countUp k.telegramsIn }) (posted n c needs v), .done [byteOf n]) := by
  rw [sendTelegram, h]
  simp only [routeArrival_accepted route]
  rfl

end Send

/-- Settles O22: what the SEND holds at its end, and from there the three outcomes of the routing decision. -/
theorem sendRouted : Obligations.SendRouted := by
  intro seq body s ht
  refine ⟨fun hi lo cls data h v hbody hlen b hb start => ?_, fun hlen => ?_⟩
  · subst hbody
    have arrival : sendArrival (numOfBytes hi lo) cls data (countIn (fillArrival (hi :: lo :: cls :: data) s)) =
        (heldFilled h (numOfBytes hi lo) cls data v, h) := by
      rcases start with ⟨rx, rfl⟩ | ⟨rx, asked⟩
      · rw [hb]
        exact sendArrival_headed rx
      · rw [hb] at asked
        exact sendArrival_late rx asked
    obtain ⟨clock, restart⟩ : v.clock = s.clock ∧ v.link.restart = none := by
      rcases start with ⟨-, rfl⟩ | ⟨-, asked⟩
      · rw [hb]
        exact ⟨rfl, ht.2.2.2.2⟩
      · have kept := reserve_clock_restart .host 0 data.length b
        rw [asked, hb] at kept
        exact ⟨kept.1, kept.2.trans ht.2.2.2.2⟩
    refine ⟨fun r hr => ?_, fun n u hn hu => ⟨fun r route => ?_, fun c needs route => ?_⟩⟩
    · subst hr
      exact exec_send_failed (e := .refused r) ht ((runSend_fits hlen _).trans (sendTelegram_failed arrival)) restart
    · subst hn
      have filled : heldFilled (.granted n) (numOfBytes hi lo) cls data v = u := hu.symm
      rw [filled] at arrival
      refine exec_send_failed (e := .refused r) ht ((runSend_fits hlen _).trans (sendTelegram_refused arrival route)) ?_
      have released : (releaseFilling n u).link.restart = u.link.restart := (giveBack_services u (some (.granted n))).restart
      rw [released, hu, fillTicket_link, restart]
    · subst hn
      have filled : heldFilled (.granted n) (numOfBytes hi lo) cls data v = u := hu.symm
      rw [filled] at arrival
      have post := posted_posted n c (route_ok _ route).1 u
      have queues : ∀ e k, u.fifo e k = v.fifo e k := fun e k => by
        rw [hu]
        exact fifo_of_trunks (fillTicket_trunks _ _ _ _ _) (fillTicket_hostEgress _ _ _ _ _) e k
      have link : u.link = v.link := by rw [hu, fillTicket_link]
      refine ⟨posted n c needs u, ?_, fun x hx => ?_, fun e k hk => ?_, fun k hk => ?_, fun m hm => ?_, ?_, ?_, ?_, fun t => ?_⟩
      · refine exec_send_done ht ((runSend_fits hlen _).trans (sendTelegram_accepted arrival route)) ?_
        change (posted n c needs u).link.restart = none
        rw [post.link, link, restart]
      · rw [post.tail x hx, queues]
      · rw [post.others e k hk, queues]
      · rw [post.stored _ (by rw [hu, fillTicket_ticket hk, if_pos rfl]), hu, fillTicket_clock, clock]
      · rw [post.tickets m hm, hu, fillTicket_ticket_of_ne _ _ _ hm]
      · rw [post.free, hu, fillTicket_free]
      · rw [post.dir, hu, fillTicket_dir]
      · rw [post.link, link]
      · rw [post.wakes t, hu, fillTicket_wakes, trunk_of_trunks (fillTicket_trunks _ _ _ _ _)]
  · rw [← dropArrival_fillArrival body s]
    refine exec_send_failed (e := .badBody) ht (runSend_badBody hlen _) ?_
    rw [dropArrival_fillArrival]
    unfold dropArrival
    split
    · exact (giveBack_services _ _).restart.trans ht.2.2.2.2
    · exact ht.2.2.2.2
    · exact ht.2.2.2.2

/-! ### A DATA judged -/

section Data

variable {s : State} {t : TrunkId} {n : Num} {x : Txn} {hd : Held}

theorem heard_store (t : TrunkId) (n : Num) (s : State) : (heard t n s).store = s.store := by
  unfold heard
  split
  · rfl
  · split
    · split
      · rw [wake_store, raise_store]
        rfl
      · rfl
    · rfl

theorem heldOn_eq (hx : (s.trunk t).txn = some x) (hh : x.held = some hd) : s.heldOn t = some hd := by
  rw [State.heldOn, hx]
  exact hh

theorem dataFits_of_ticket {l : Nat} (held : s.heldOn t = some hd) (fits : l ≤ 240)
    (h : ∀ k, hd = .granted k → (s.ticket k).map Ticket.length = some l) : s.dataFits t l = true := by
  unfold State.dataFits
  rw [held, decide_eq_true (show l ≤ Config.maxData from fits), Bool.true_and]
  cases hd with
  | granted k => exact decide_eq_true (h k rfl)
  | failed r => rfl

theorem judgeData_good {h : StationHead} {l : List Byte} (polled : s.polled t = some n) (hn : h.station = n)
    (fits : s.dataFits t l.length = true) (d : Num) (c : Byte) :
    judgeData t h d c l s = goodData t n h.mark d c l s := by
  rw [judgeData, polled]
  exact if_pos ⟨hn, fits⟩

theorem ensureHeld_held (held : s.heldOn t = some hd) (m : Num) (l : Nat) : ensureHeld t m l s = s := by
  rw [ensureHeld, held]

theorem fillHeld_held (held : s.heldOn t = some hd) (d : Num) (c : Byte) (data : List Byte) :
    fillHeld t d c data s = heldFilled hd d c data s := by
  rw [fillHeld, held]
  cases hd <;> rfl

theorem newData_granted {k : Nat} (held : s.heldOn t = some (.granted k)) (mark : Bool) (d : Num) (c : Byte) :
    newData t n mark d c s = routeArrival (.trunk t) n mark k d c s := by
  rw [newData, held]

theorem newData_failed {r : Reason} (held : s.heldOn t = some (.failed r)) (mark : Bool) (d : Num) (c : Byte) :
    newData t n mark d c s = (s, some r) := by
  rw [newData, held]

theorem heldFilled_trunks (h : Held) (d : Num) (c : Byte) (data : List Byte) (s : State) :
    (heldFilled h d c data s).trunks = s.trunks := by
  cases h with
  | granted n => exact fillTicket_trunks _ _ _ _ _
  | failed r => rfl

theorem heldFilled_dir (h : Held) (d : Num) (c : Byte) (data : List Byte) (s : State) :
    (heldFilled h d c data s).dir = s.dir := by
  cases h with
  | granted n => exact fillTicket_dir _ _ _ _ _
  | failed r => rfl

theorem station_of_dir {u v : State} (h : u.dir = v.dir) (m : Num) : u.station m = v.station m := by
  unfold State.station State.entry
  rw [h]

theorem isRepeat_of_dir {u v : State} (h : u.dir = v.dir) (t : TrunkId) (m : Num) (mark : Bool) :
    u.isRepeat t m mark = v.isRepeat t m mark := by
  unfold State.isRepeat
  rw [station_of_dir h]

theorem isRepeat_iff (s : State) (t : TrunkId) (m : Num) (mark : Bool) :
    s.isRepeat t m mark = true ↔ ∃ st, s.station m = some st ∧ st.home = some t ∧ st.inMark = some mark := by
  unfold State.isRepeat
  cases s.station m <;> simp

/-- A good DATA, judged in the state whose ticket holds it (04 R74). -/
theorem goodData_eq {a : State} (mark : Bool) (d : Num) (c : Byte) (data : List Byte)
    (ha : heard t n (countTrunk t (fun c => { c with dataIn := countUp c.dataIn }) s) = a) (held : a.heldOn t = some hd) :
    goodData t n mark d c data s =
      if a.isRepeat t n mark then enterConfirming t ⟨n, mark, none⟩
        (giveBackTxn t (countTrunk t (fun c => { c with repeats := countUp c.repeats }) (heldFilled hd d c data a)))
      else enterConfirming t ⟨n, mark, (newData t n mark d c (heldFilled hd d c data a)).2⟩
        (newData t n mark d c (heldFilled hd d c data a)).1 := by
  rw [goodData, ha, ensureHeld_held held, fillHeld_held held, isRepeat_of_dir (heldFilled_dir hd d c data a)]

theorem chargeSource_wakes (t : TrunkId) (n : Num) (b : Bool) (k : Nat) (s : State) : (chargeSource t n b k s).wakes = s.wakes := by
  unfold chargeSource
  split <;> rfl

theorem chargeSource_link (t : TrunkId) (n : Num) (b : Bool) (k : Nat) (s : State) : (chargeSource t n b k s).link = s.link := by
  unfold chargeSource
  split <;> rfl

theorem chargeSource_station {st : Station} (h : s.station n = some st) (t : TrunkId) (b : Bool) (k : Nat) :
    (chargeSource t n b k s).station n = some
      { st with
        held := st.held + k
        accepted := if st.accepted = 65535 then 65535 else st.accepted + 1
        inMark := if st.home = some t then some b else st.inMark } := by
  unfold chargeSource
  rw [h]
  simp only [station_putStation, if_true, up16_eq]

theorem chargeSource_entry_of_ne {m : Num} (h : m ≠ n) (t : TrunkId) (b : Bool) (k : Nat) :
    (chargeSource t n b k s).entry m = s.entry m := by
  unfold chargeSource
  split
  · rfl
  · rw [entry_putStation, if_neg h]

end Data

/-- Settles O36: the DATA judged in the state whose ticket holds it, then a repeat, a failed reservation, or the routing decision. -/
theorem dataJudged : Obligations.DataJudged := by
  intro t h dest cls data s x n hd hr hact hx hkind hheld hrx hn hlen hticket a u ha hfailed hgranted confirms
  have judged : exec (.dataFrame t h dest cls data) s =
      .next (finish (judgeData t h dest cls data (s.modTrunk t fun k => { k with rx := .none }))) := exec_answer rfl hr hrx
  have txn : ((s.modTrunk t fun k => { k with rx := .none }).trunk t).txn = some x := by rw [State.modTrunk_trunk_self]; exact hx
  have polled : (s.modTrunk t fun k => { k with rx := .none }).polled t = some n :=
    polled_eq (by rw [State.modTrunk_trunk_self]; exact hact) txn hkind
  have fits := dataFits_of_ticket (heldOn_eq txn hheld) hlen hticket
  have counted : heard t n (countTrunk t (fun c => { c with dataIn := countUp c.dataIn })
      (s.modTrunk t fun k => { k with rx := .none })) = a := by
    rw [ha, countTrunk, State.modTrunk_modTrunk]
  have trunk : ∀ v, a.trunk v = (s.modTrunk t fun k =>
      { k with rx := .none, counters := { k.counters with dataIn := countUp k.counters.dataIn } }).trunk v := fun v => by
    rw [ha]
    exact trunk_of_trunks (heard_trunks _ _ _) v
  have atxn : (a.trunk t).txn = some x := by rw [trunk, State.modTrunk_trunk_self]; exact hx
  have held := heldOn_eq atxn hheld
  have filled : heldFilled hd dest cls data a = u := by
    cases hd with
    | granted k => exact (hgranted k rfl).symm
    | failed r => exact (hfailed r rfl).symm
  have utrunk : ∀ v, u.trunk v = a.trunk v := fun v => by
    rw [← filled]
    exact trunk_of_trunks (heldFilled_trunks hd dest cls data a) v
  have uheld : u.heldOn t = some hd := heldOn_eq ((congrArg Trunk.txn (utrunk t)).trans atxn) hheld
  have run := judgeData_good polled hn fits dest cls
  rw [goodData_eq h.mark dest cls data counted held, filled] at run
  have fresh : a.isRepeat t n h.mark = false → ∀ v r, newData t n h.mark dest cls u = (v, r) → confirms r v := fun again v r new => by
    change exec (.dataFrame t h dest cls data) s = _
    rw [judged, run, again, if_neg Bool.false_ne_true, new]
    rfl
  refine ⟨isRepeat_iff _ _ _ _, fun again => ?_, fun again => ⟨fun r hr => ?_, fun k r hk route => ?_, fun k c needs hk route => ?_⟩⟩
  · change exec (.dataFrame t h dest cls data) s = _
    have back : ((countTrunk t (fun c => { c with repeats := countUp c.repeats }) u).trunk t).txn = some x := by
      rw [countTrunk, State.modTrunk_trunk_self]
      exact (congrArg Trunk.txn (utrunk t)).trans atxn
    rw [judged, run, again, if_pos rfl, giveBackTxn_eq back, hheld]
    rfl
  · subst hr
    exact fresh again u (some r) (newData_failed uheld _ _ _)
  · subst hk
    exact fresh again _ _ ((newData_granted uheld _ _ _).trans (routeArrival_refused route))
  · subst hk
    have post := posted_posted k c (route_ok _ route).1 u
    have hu := hgranted k rfl
    have store : a.store = s.store := by rw [ha, heard_store]; rfl
    have clock : u.clock = s.clock := by
      rw [hu, fillTicket_clock, ha]
      exact (heard_services _ t n).clock
    have queues : ∀ e d, u.fifo e d = s.fifo e d := fun e d => by
      rw [hu, fifo_of_trunks (fillTicket_trunks _ _ _ _ _) (fillTicket_hostEgress _ _ _ _ _), ha,
        fifo_of_trunks (heard_trunks _ _ _) (heard_hostEgress _ _ _)]
      exact fifo_rewritten rfl fun _ => by rfl
    have charged : ∀ e d, (chargeSource t n h.mark (u.ticketBlocks k) (posted k c needs u)).fifo e d = (posted k c needs u).fifo e d :=
      fun e d => fifo_of_trunks (chargeSource_trunks _ _ _ _ _) (chargeSource_hostEgress _ _ _ _ _) e d
    have tickets : ∀ m, (chargeSource t n h.mark (u.ticketBlocks k) (posted k c needs u)).ticket m = (posted k c needs u).ticket m :=
      ticket_congr (chargeSource_store _ _ _ _ _)
    have dir : (posted k c needs u).dir = a.dir := by rw [post.dir, hu, fillTicket_dir]
    refine ⟨chargeSource t n h.mark (u.ticketBlocks k) (posted k c needs u),
      fresh again _ _ ((newData_granted uheld _ _ _).trans (routeArrival_accepted route)), fun y hy => ?_, fun e d hd => ?_,
      fun o ho => ⟨?_, fun st hst => ?_⟩, fun m hm => ?_, fun m hm => ?_, ?_, fun v => ?_⟩
    · rw [charged, post.tail y hy, queues]
    · rw [charged, post.others e d hd, queues]
    · have ua : u.ticket k = some { o with dest := some dest, cls := some cls, data := data } := by
        rw [hu, fillTicket_ticket ((ticket_congr store k).trans ho), if_pos rfl]
      rw [tickets, post.stored _ ua, clock]
    · have ua : u.ticket k = some { o with dest := some dest, cls := some cls, data := data } := by
        rw [hu, fillTicket_ticket ((ticket_congr store k).trans ho), if_pos rfl]
      rw [chargeSource_station ((station_of_dir dir n).trans hst), State.ticketBlocks, ua]
      rfl
    · rw [tickets, post.tickets m hm, hu, fillTicket_ticket_of_ne _ _ _ hm, ticket_congr store]
    · rw [chargeSource_entry_of_ne hm, State.entry, dir, State.entry]
    · rw [chargeSource_link, post.link, hu, fillTicket_link]
    · rw [chargeSource_wakes, post.wakes v, utrunk v, hu, fillTicket_wakes]

end Sys2Proof.Machine
end


section
/-!
PROOFS. The transmitter at the end of an event, the HOST pick, and the waking of a controller (07 R140, 08 R154 to R160, 05 R93).
-/

namespace Sys2Proof.Machine

/-! ### What a free transmitter takes -/

section Transmitter

variable {s u : State}

theorem serveLink_busy (h : s.link.tx ≠ .free) : serveLink s = s := by
  unfold serveLink
  split
  · next free => exact absurd free h
  all_goals rfl

theorem serveLink_free (h : s.link.tx = .free) : serveLink s = takeNext s := by
  rw [serveLink, h]

/-- The end of an event in which the transmitter takes a message and no controller is woken. -/
theorem finish_of_taken (asleep : s.wakes = Quad.all false) (taken : serveLink s = u) (wakes : u.wakes = Quad.all false)
    (busy : u.link.tx ≠ .free) : finish s = u := by
  rw [finish_of_asleep asleep (by rw [taken]; exact wakes), taken, serveLink_busy busy]

/-- The end of an event in which the transmitter, served twice, comes to rest. -/
theorem finish_of_rest (asleep : s.wakes = Quad.all false) (first : serveLink s = u) (wakes : u.wakes = Quad.all false)
    (second : serveLink u = u) : finish s = u := by
  rw [finish_of_asleep asleep (by rw [first]; exact wakes), first, second]

theorem noticeDue_resend (hs : s.link.stalled = false) (h : s.link.resendDue ≠ .no) : s.noticeDue = true := by
  simp [State.noticeDue, hs, h]

theorem noticeDue_pending (hs : s.link.stalled = false) (h : s.link.pendingNotices ≠ [])
    (window : s.link.unacked.length < s.params.noticeWindow) : s.noticeDue = true := by
  simp [State.noticeDue, hs, h, window]

theorem noticeDue_quiet (h : s.link.stalled = true ∨ (s.link.resendDue = .no ∧
    (s.link.pendingNotices = [] ∨ s.params.noticeWindow ≤ s.link.unacked.length))) : s.noticeDue = false := by
  rcases h with stalled | ⟨no, pending | window⟩
  · simp [State.noticeDue, stalled]
  · simp [State.noticeDue, no, pending]
  · simp [State.noticeDue, no, Nat.not_lt.mpr window]

theorem takeNext_reply {r : Message} {rs : List Message} (h : s.link.replies = r :: rs) :
    takeNext s = s.modLink fun l => { l with tx := .reply r, replies := rs } := by
  rw [takeNext, h]

theorem takeNext_notice (h : s.link.replies = []) (due : s.noticeDue = true) : takeNext s = takeNotice s := by
  simp only [takeNext, h, due, if_true]

theorem takeNext_pick (h : s.link.replies = []) (due : s.noticeDue = false) (credit : 0 < s.link.credit) :
    takeNext s = takeTelegram s := by
  simp only [takeNext, h, due, Bool.false_eq_true, if_false, credit, if_true]

theorem takeNext_none (h : s.link.replies = []) (due : s.noticeDue = false) (credit : s.link.credit = 0) : takeNext s = s := by
  simp only [takeNext, h, due, Bool.false_eq_true, if_false, credit, Nat.lt_irrefl]

/-- The oldest unacknowledged notice sent again (08 R160). -/
theorem takeNotice_resend {x : Unacked} {xs : List Unacked} (due : s.link.resendDue ≠ .no) (h : s.link.unacked = x :: xs) :
    takeNotice s = s.modLink fun l =>
      { l with
        tx := .notice x.notice.message
        unacked := { x with resends := if l.resendDue = .afterTimeout then x.resends + 1 else x.resends } :: xs
        resendDue := .no
        counters := { l.counters with noticeResends := countUp l.counters.noticeResends } } := by
  rw [takeNotice, if_pos due, startResend, h]
  rfl

/-- The oldest pending notice sent for the first time (08 R158). -/
theorem takeNotice_first {n : Notice} {ns : List Notice} (no : s.link.resendDue = .no) (h : s.link.pendingNotices = n :: ns) :
    takeNotice s = s.modLink fun l =>
      { l with
        tx := .notice n.message
        pendingNotices := ns
        unacked := l.unacked ++ [⟨n, 0⟩]
        counters := { l.counters with noticesSent := countUp l.counters.noticesSent } } := by
  rw [takeNotice, if_neg (not_not_intro no), startNotice, h]
  rfl

theorem takeTelegram_picked {p : Cls × QEntry} (h : hostPick s = (u, some p)) : takeTelegram s = startTelegram p u := by
  rw [takeTelegram, h]

theorem takeTelegram_none (h : hostPick s = (u, none)) : takeTelegram s = if u.noticeDue then takeNotice u else u := by
  rw [takeTelegram, h]

/-- A pick leaves the transmitter and the resend due as they are. -/
theorem hostPick_sending {o : Option (Cls × QEntry)} (h : hostPick s = (u, o)) : u.link.sending = s.link.sending := by
  have kept := hostPickWithin_sending (s := s) (s.entries .host + 1)
  rw [show hostPickWithin (s.entries .host + 1) s = (u, o) from h] at kept
  exact kept

theorem hostPick_replies {o : Option (Cls × QEntry)} (h : hostPick s = (u, o)) (empty : s.link.replies = []) :
    u.link.replies = [] := by
  have kept := (hostPick_services s).link.replies
  rw [h, empty] at kept
  exact List.suffix_nil.mp kept

/-- Nothing is left to take after a pick that found every class empty. -/
theorem takeNext_after_none (h : hostPick s = (u, none)) (empty : s.link.replies = []) (due : u.noticeDue = false) :
    takeNext u = u := by
  have none_left := hostPick_replies h empty
  by_cases credit : 0 < u.link.credit
  · rw [takeNext_pick none_left due credit, takeTelegram_none (hostPick_empty (hostPick_none h)), due, if_neg Bool.false_ne_true]
  · exact takeNext_none none_left due (Nat.eq_zero_of_not_pos credit)

end Transmitter

/-! ### The HOST pick -/

section HostPick

variable {s : State} {c : Cls} {q : QEntry} {qs : List QEntry} {k : Ticket} {b : TicketBody}

theorem giveUpHost_eq (hq : s.fifo .host c = q :: qs) (hs : s.stored q.ticket = some (k, b)) :
    giveUpHost c q s = dropRef q.ticket
      (raise (.undelivered q.ticket k.source b.dest b.cls .expired .host) (setFifo .host c qs s)) := by
  have stored : (setFifo .host c qs s).stored q.ticket = some (k, b) := (stored_of_store (setFifo_store _ _ _) _).trans hs
  rw [giveUpHost, popHead_eq hq, raiseUndelivered, stored]

/-- One repetition of the HOST pick at the highest class that holds an entry. -/
theorem hostPickWithin_succ (n : Nat) (hq : s.fifo .host c = q :: qs) (higher : ∀ d, c < d → s.fifo .host d = [])
    (hs : s.stored q.ticket = some (k, b)) :
    hostPickWithin (n + 1) s = if s.expired b then hostPickWithin n (giveUpHost c q s) else (s, some (c, q)) := by
  have head : s.fifo .host c ≠ [] := by rw [hq]; exact List.cons_ne_nil _ _
  simp only [hostPickWithin, hostClass_eq_some head higher, hq, hs]

theorem hostPick_head (hq : s.fifo .host c = q :: qs) (higher : ∀ d, c < d → s.fifo .host d = [])
    (hs : s.stored q.ticket = some (k, b)) :
    hostPick s = if s.expired b then hostPick (giveUpHost c q s) else (s, some (c, q)) := by
  rw [hostPick, hostPickWithin_succ _ hq higher hs, hostPick, entries_giveUpHost hq]

end HostPick

/-! ### A wake event -/

section Wake

variable {s u : State} {t : TrunkId}

theorem nextWake_single (h : s.wakes = (Quad.all false).set t true) : s.nextWake = some t := by
  rw [State.nextWake, h]
  clear h
  revert t
  decide

theorem all_false_set_set (t : TrunkId) : ((Quad.all false).set t true).set t false = Quad.all false := by
  revert t
  decide

theorem runWakesWithin_asleep (n : Nat) (h : s.wakes = Quad.all false) : runWakesWithin n s = s := by
  cases n with
  | zero => rw [runWakesWithin, ← h]; rfl
  | succ n => rw [runWakesWithin, nextWake_of_asleep h]

/-- The one woken controller decides, if it is IDLE, and nothing else is woken. -/
theorem runWakes_single (h : s.wakes = (Quad.all false).set t true)
    (decided : u = if (s.trunk t).activity = .idle then workDecision t (s.setWakes (Quad.all false)) else s.setWakes (Quad.all false))
    (asleep : u.wakes = Quad.all false) : runWakes s = u := by
  have cleared : s.setWakes (s.wakes.set t false) = s.setWakes (Quad.all false) := by rw [h, all_false_set_set]
  rw [runWakes, runWakesWithin, nextWake_single h]
  simp only [cleared]
  rw [show ((s.setWakes (Quad.all false)).trunk t).activity = (s.trunk t).activity from rfl, ← decided, runWakesWithin_asleep _ asleep]

/-- The end of an event that woke one controller, the transmitter busy throughout. -/
theorem finish_single (h : s.wakes = (Quad.all false).set t true)
    (decided : u = if (s.trunk t).activity = .idle then workDecision t (s.setWakes (Quad.all false)) else s.setWakes (Quad.all false))
    (asleep : u.wakes = Quad.all false) (busy : u.link.tx ≠ .free) : finish s = u := by
  rw [finish, runWakes_single h decided asleep, serveLink_busy busy, runWakes_of_asleep asleep, serveLink_busy busy]

theorem workDecision_tx (t : TrunkId) (s : State) : (workDecision t s).link.tx = s.link.tx :=
  congrArg Prod.fst (workDecision_sending (s := s) t)

end Wake

/-- Settles O49: what a free transmitter takes, branch by branch; the HOST pick by its repetition; a wake event's one decision. -/
theorem transmitterOrder : Obligations.TransmitterOrder := by
  unfold Obligations.TransmitterOrder
  intro quiet notifies
  refine ⟨fun s asleep => ⟨fun busy => finish_of_taken asleep (serveLink_busy busy) asleep busy,
      fun r rs free hr => finish_of_taken asleep ((serveLink_free free).trans (takeNext_reply hr)) asleep nofun,
      fun free none_due => ?_⟩, fun s => ⟨hostPick_empty, fun c q qs k b hq higher hs => ?_⟩, fun s t => ?_⟩
  · have served : ∀ v : State, v.noticeDue = true → v.link.replies = [] → takeNext v = takeNotice v := fun v due empty =>
      takeNext_notice empty due
    refine ⟨fun x xs hs due hx => ?_, fun n ns hs no hn window => ?_, fun hq credit => ?_,
      fun hq credit => ⟨fun u c q k b pick wakes hs => ?_, fun u pick wakes hu => ?_, fun u n ns pick wakes hs no hn window => ?_⟩⟩
    · refine finish_of_taken asleep ?_ asleep nofun
      rw [serveLink_free free, served s (noticeDue_resend hs due) none_due]
      exact takeNotice_resend due hx
    · refine finish_of_taken asleep ?_ asleep nofun
      rw [serveLink_free free, served s (noticeDue_pending hs (by rw [hn]; exact List.cons_ne_nil _ _) window) none_due]
      exact takeNotice_first no hn
    · have rest := (serveLink_free free).trans (takeNext_none none_due (noticeDue_quiet hq) credit)
      exact finish_of_rest asleep rest asleep rest
    · refine finish_of_taken asleep ?_ wakes nofun
      rw [serveLink_free free, takeNext_pick none_due (noticeDue_quiet hq) credit, takeTelegram_picked pick, startTelegram, hs]
      rfl
    · have due : u.noticeDue = false := noticeDue_quiet hu
      have ufree : u.link.tx = .free := (congrArg Prod.fst (hostPick_sending pick)).trans free
      refine finish_of_rest asleep ?_ wakes ((serveLink_free ufree).trans (takeNext_after_none pick none_due due))
      rw [serveLink_free free, takeNext_pick none_due (noticeDue_quiet hq) credit, takeTelegram_none pick, due,
        if_neg Bool.false_ne_true]
    · refine finish_of_taken asleep ?_ wakes nofun
      have due := noticeDue_pending hs (by rw [hn]; exact List.cons_ne_nil _ _) window
      rw [serveLink_free free, takeNext_pick none_due (noticeDue_quiet hq) credit, takeTelegram_none pick, due, if_pos rfl]
      exact takeNotice_first no hn
  · intro late
    have expired : s.expired b = late := rfl
    have pick := hostPick_head hq higher hs
    rw [expired] at pick
    refine ⟨fun h => ?_, fun h => ?_⟩
    · rw [pick, h, if_neg Bool.false_ne_true]
    · rw [pick, h, if_pos rfl, giveUpHost_eq hq hs]
  · refine ⟨fun idle => if_pos idle, fun other => if_neg other, rfl, rfl, rfl, fun u busy one asleep => ⟨fun idle decided => ?_, fun other => ?_⟩⟩
    · refine finish_single one (decided.trans (if_pos idle).symm) asleep ?_
      rw [decided, workDecision_tx]
      exact busy
    · exact finish_single one (if_neg other).symm rfl busy

end Sys2Proof.Machine
end


section
/-!
PROOFS. Class service, the head checks, and the repetitions of a pick at a trunk's egress (07 R133 to R139).
-/

namespace Sys2Proof.Machine

/-! ### The class chosen -/

section Choose

variable {s : State} {t : TrunkId} {c : Cls}

/-- The class of the largest balance, the highest of those that share it. -/
theorem largest_eq {bal : Quad Int} {l : List Cls} (descending : l.Pairwise fun a b => b < a) (hc : c ∈ l)
    (most : ∀ k ∈ l, bal.get k ≤ bal.get c) (highest : ∀ k ∈ l, bal.get k = bal.get c → k ≤ c) : largest bal l = some c := by
  induction l with
  | nil => cases hc
  | cons x xs ih =>
    obtain ⟨below, rest⟩ := List.pairwise_cons.mp descending
    rcases List.mem_cons.mp hc with rfl | hm
    · cases hd : largest bal xs with
      | none => simp only [largest, hd]
      | some d =>
        have small := most d (List.mem_cons_of_mem _ (largest_mem hd))
        simp only [largest, hd, if_neg (not_lt.mpr small)]
    · have tail := ih rest hm (fun k hk => most k (List.mem_cons_of_mem _ hk)) fun k hk => highest k (List.mem_cons_of_mem _ hk)
      have less : bal.get x < bal.get c := lt_of_le_of_ne (most x List.mem_cons_self) fun same =>
        absurd (highest x List.mem_cons_self same) (not_le.mpr (below c hm))
      simp only [largest, tail, if_pos less]

theorem mem_activeClasses : c ∈ s.activeClasses t ↔ s.fifo (.trunk t) c ≠ [] := by
  have all : c ∈ ([3, 2, 1, 0] : List Cls) := by
    match c with
    | 0 | 1 | 2 | 3 => simp
  simp only [State.activeClasses, List.mem_filter, all, true_and, decide_eq_true_eq]

theorem activeClasses_descending (s : State) (t : TrunkId) : (s.activeClasses t).Pairwise fun a b => b < a :=
  List.Pairwise.filter _ (by decide)

theorem addedBalances_get (s : State) (t : TrunkId) (k : Cls) :
    (s.addedBalances t).get k = (s.trunk t).egress.balance.get k + (s.activeWeight t k : Int) := by
  match k with
  | 0 | 1 | 2 | 3 => rfl

theorem chooseClass_express (on : (s.tparams t).express ≠ 0) (h : s.fifo (.trunk t) 3 ≠ []) : chooseClass t s = (s, some 3) :=
  if_pos ⟨on, h⟩

theorem chooseClass_served (off : (s.tparams t).express = 0 ∨ s.fifo (.trunk t) 3 = [])
    (h : largest (s.addedBalances t) (s.activeClasses t) = some c) : chooseClass t s =
      (setBalances t ((s.addedBalances t).set c ((s.addedBalances t).get c - s.weightSum t)) s, some c) := by
  unfold chooseClass
  rw [if_neg (fun ⟨on, held⟩ => off.elim on held), h]

theorem chooseClass_empty (h : ∀ k, s.fifo (.trunk t) k = []) : chooseClass t s = (s, none) := by
  have none_active : s.activeClasses t = [] := List.eq_nil_iff_forall_not_mem.mpr fun k hk => mem_activeClasses.mp hk (h k)
  unfold chooseClass
  rw [if_neg (fun ⟨_, held⟩ => held (h 3)), none_active]
  rfl

theorem setBalances_balance (t : TrunkId) (b : Quad Int) (s : State) : ((setBalances t b s).trunk t).egress.balance = b := by
  rw [setBalances, State.modTrunk_trunk_self]

end Choose

/-! ### The head checks -/

section Head

variable {u : State} {t h : TrunkId} {c : Cls} {q : QEntry} {qs : List QEntry} {k : Ticket} {b : TicketBody} {st : Station}

theorem headCheck_late (hs : u.stored q.ticket = some (k, b)) (late : u.expired b = true) : u.headCheck t q = .giveUp .expired := by
  simp only [State.headCheck, hs, late, if_true]

theorem headCheck_other (hs : u.stored q.ticket = some (k, b)) (late : u.expired b = false) (hf : q.form ≠ some .deliver) :
    u.headCheck t q = .pass := by
  simp only [State.headCheck, hs, late, Bool.false_eq_true, if_false, hf]

theorem headCheck_noStation (hs : u.stored q.ticket = some (k, b)) (late : u.expired b = false) (hf : q.form = some .deliver)
    (homeless : ∀ st, u.station b.dest = some st → st.home = none) : u.headCheck t q = .giveUp .noStation := by
  simp only [State.headCheck, hs, late, Bool.false_eq_true, if_false, hf, if_true]
  cases hst : u.station b.dest with
  | none => rfl
  | some st => simp only [homeless st hst]

theorem headCheck_home (hs : u.stored q.ticket = some (k, b)) (late : u.expired b = false) (hf : q.form = some .deliver)
    (hst : u.station b.dest = some st) (hh : st.home = some h) : u.headCheck t q =
      if h ≠ t then u.rerouteCheck st h k.port else if st.state = .silent then .giveUp .silent else .pass := by
  simp only [State.headCheck, hs, late, Bool.false_eq_true, if_false, hf, if_true, hst, hh]

/-- Whether another home takes a rerouted entry (07 R139). -/
def State.takesReroute (u : State) (st : Station) (h : TrunkId) (arrival : Port) : Bool :=
  u.takesDeliver st h && (u.trunk h).line = .sound && (arrival ≠ .trunk h || u.params.localTurn ≠ 0)

theorem homeTest_taken (takes : u.takesReroute st h k.port = true) : u.homeTest st h k.port = none := by
  simp only [State.takesReroute, Bool.and_eq_true, Bool.or_eq_true, decide_eq_true_eq] at takes
  obtain ⟨⟨deliver, sound⟩, turn⟩ := takes
  exact homeTest_none deliver sound turn

theorem homeTest_untaken (takes : u.takesReroute st h k.port = false) : u.homeTest st h k.port ≠ none := by
  unfold State.homeTest
  simp only
  split
  · exact Option.some_ne_none _
  · next deliver =>
    split
    · exact Option.some_ne_none _
    · next sound =>
      split
      · exact Option.some_ne_none _
      · next turn =>
        have taken : u.takesReroute st h k.port = true := by
          simp only [State.takesReroute, Bool.and_eq_true, Bool.or_eq_true, decide_eq_true_eq]
          exact ⟨⟨(takesDeliver_iff u st h).mpr (not_not.mp deliver), not_not.mp sound⟩, not_and_or.mp turn⟩
        rw [taken] at takes
        cases takes

theorem rerouteCheck_untaken (takes : u.takesReroute st h k.port = false) : u.rerouteCheck st h k.port = .giveUp .noRoute := by
  unfold State.rerouteCheck
  split
  · rfl
  · next none_failed => exact absurd none_failed (homeTest_untaken takes)

theorem rerouteCheck_taken (takes : u.takesReroute st h k.port = true) : u.rerouteCheck st h k.port =
    if u.hasRoom (.trunk h) then .reroute h else .giveUp .rerouteFull := by
  simp only [State.rerouteCheck, homeTest_taken takes]

/-! ### What becomes of the head -/

/-- Setting resync pending where a removed DELIVER has started, its ticket known. -/
theorem resyncAfter_stored (hs : u.stored q.ticket = some (k, b)) : resyncAfter t q u =
    if q.form = some .deliver ∧ q.started = true then setResync t b.dest u else u := by
  unfold resyncAfter
  rw [hs]

/-- The head given up: out of its FIFO, counted, its destination marked, its notice raised, its reference dropped. -/
theorem giveUp_eq (hq : u.fifo (.trunk t) c = q :: qs) (hs : u.stored q.ticket = some (k, b)) (r : Undelivered) :
    giveUp t c q r u = dropRef q.ticket (raise (.undelivered q.ticket k.source b.dest b.cls r (.trunk t))
      (if r.resyncs then resyncAfter t q (countGivenUp t r (setFifo (.trunk t) c qs u))
        else countGivenUp t r (setFifo (.trunk t) c qs u))) := by
  have stored : (if r.resyncs then resyncAfter t q (countGivenUp t r (setFifo (.trunk t) c qs u))
      else countGivenUp t r (setFifo (.trunk t) c qs u)).stored q.ticket = some (k, b) := by
    refine (stored_of_store ?_ _).trans hs
    split
    · rw [resyncAfter_store]
      rfl
    · rfl
  rw [giveUp, popHead_eq hq]
  simp only [raiseUndelivered, stored]

theorem giveUp_plain (hq : u.fifo (.trunk t) c = q :: qs) (hs : u.stored q.ticket = some (k, b)) {r : Undelivered}
    (hr : r.resyncs = false) : giveUp t c q r u =
      dropRef q.ticket (raise (.undelivered q.ticket k.source b.dest b.cls r (.trunk t))
        (countGivenUp t r (setFifo (.trunk t) c qs u))) := by
  rw [giveUp_eq hq hs, hr, if_neg Bool.false_ne_true]

theorem giveUp_marking (hq : u.fifo (.trunk t) c = q :: qs) (hs : u.stored q.ticket = some (k, b)) {r : Undelivered}
    (hr : r.resyncs = true) : giveUp t c q r u =
      dropRef q.ticket (raise (.undelivered q.ticket k.source b.dest b.cls r (.trunk t))
        (if q.form = some .deliver ∧ q.started = true then setResync t b.dest (countGivenUp t r (setFifo (.trunk t) c qs u))
          else countGivenUp t r (setFifo (.trunk t) c qs u))) := by
  have stored : (countGivenUp t r (setFifo (.trunk t) c qs u)).stored q.ticket = some (k, b) :=
    (stored_of_store (by rfl) _).trans hs
  rw [giveUp_eq hq hs, hr, if_pos rfl, resyncAfter_stored stored]

theorem reroute_eq (hq : u.fifo (.trunk t) c = q :: qs) (hne : h ≠ t) : reroute t c q h u =
    wake h (setFifo (.trunk h) c (u.fifo (.trunk h) c ++ [{ q with flushMark := false }])
      (countTrunk t (fun n => { n with rerouted := countUp n.rerouted }) (setFifo (.trunk t) c qs u))) := by
  have queue : (countTrunk t (fun n => { n with rerouted := countUp n.rerouted }) (setFifo (.trunk t) c qs u)).fifo (.trunk h) c =
      u.fifo (.trunk h) c := by
    refine fifo_rewritten ?_ fun _ => by rfl
    rw [fifo_setFifo, if_neg]
    rintro ⟨same, _⟩
    exact hne (Port.trunk.inj same)
  rw [reroute, popHead_eq hq, appendEntry, queue]
  rfl

end Head

/-! ### One repetition of a pick -/

section Pick

variable {s u : State} {t h : TrunkId} {c : Cls} {q : QEntry} {qs : List QEntry} {r : Undelivered}

theorem pickTrunk_unchosen (hc : chooseClass t s = (u, none)) : pickTrunk t s = (u, none) := by
  rw [pickTrunk, pickWithin, hc]

theorem entries_of_chosen (hc : chooseClass t s = (u, some c)) : u.entries (.trunk t) = s.entries (.trunk t) :=
  entries_congr fun k => by
    have kept := chooseClass_fifo (s := s) t (.trunk t) k
    rw [hc] at kept
    exact kept

theorem pickTrunk_passes (hc : chooseClass t s = (u, some c)) (hq : u.fifo (.trunk t) c = q :: qs)
    (check : u.headCheck t q = .pass) : pickTrunk t s = (u, some (c, q)) := by
  simp only [pickTrunk, pickWithin, hc, hq, check]

theorem pickTrunk_givesUp (hc : chooseClass t s = (u, some c)) (hq : u.fifo (.trunk t) c = q :: qs)
    (check : u.headCheck t q = .giveUp r) : pickTrunk t s = pickTrunk t (giveUp t c q r u) := by
  rw [pickTrunk, ← entries_of_chosen hc, ← entries_giveUp (r := r) hq]
  simp only [pickWithin, hc, hq, check]
  rfl

theorem pickTrunk_reroutes (hc : chooseClass t s = (u, some c)) (hq : u.fifo (.trunk t) c = q :: qs)
    (check : u.headCheck t q = .reroute h) (hne : h ≠ t) : pickTrunk t s = pickTrunk t (reroute t c q h u) := by
  rw [pickTrunk, ← entries_of_chosen hc, ← entries_reroute hne hq]
  simp only [pickWithin, hc, hq, check]
  rfl

end Pick

/-- Settles O51: the class of the largest balance, and the pick's repetition by what the head checks find. -/
theorem classService : Obligations.ClassService := by
  refine ⟨fun t s => ⟨fun on held => chooseClass_express on held, fun off => ?_⟩, fun _ _ _ _ => rfl,
    fun _ _ _ => rfl, fun t s u => ⟨pickTrunk_unchosen, fun c q qs k b hc hq hs => ?_⟩⟩
  · intro w b
    refine ⟨chooseClass_empty, fun c hc most highest => ?_⟩
    have bal : ∀ k, (s.addedBalances t).get k = b k := addedBalances_get s t
    have chosen : largest (s.addedBalances t) (s.activeClasses t) = some c := by
      refine largest_eq (activeClasses_descending s t) (mem_activeClasses.mpr hc) (fun k hk => ?_) fun k hk => ?_
      · rw [bal, bal]
        exact most k (mem_activeClasses.mp hk)
      · rw [bal, bal]
        exact highest k (mem_activeClasses.mp hk)
    refine ⟨_, chooseClass_served off chosen, fun e k => fifo_modTrunk _ rfl e k, fun k => ?_⟩
    rw [setBalances_balance, Quad.get_set, bal, bal]
    rfl
  · intro late out yields marked lost
    have expired : u.expired b = late := rfl
    have givesUp : ∀ r, u.headCheck t q = .giveUp r → r.resyncs = false → lost r id := fun r check hr => by
      change pickTrunk t s = _
      rw [pickTrunk_givesUp hc hq check, giveUp_plain hq hs hr]
      rfl
    have givesUpMarked : ∀ r, u.headCheck t q = .giveUp r → r.resyncs = true → lost r marked := fun r check hr => by
      change pickTrunk t s = _
      rw [pickTrunk_givesUp hc hq check, giveUp_marking hq hs hr]
      rfl
    refine ⟨fun h => givesUpMarked _ (headCheck_late hs (expired.trans h)) rfl,
      fun h hf => pickTrunk_passes hc hq (headCheck_other hs (expired.trans h) hf),
      fun h hf => ⟨fun homeless => givesUp _ (headCheck_noStation hs (expired.trans h) hf homeless) rfl, fun st h' hst hh => ?_⟩⟩
    have check := headCheck_home (t := t) hs (expired.trans h) hf hst hh
    refine ⟨fun here silent => givesUpMarked _ ?_ rfl, fun here active => pickTrunk_passes hc hq ?_, fun away => ?_⟩
    · rw [check, if_neg (not_not_intro here), if_pos silent]
    · rw [check, if_neg (not_not_intro here), if_neg (by rw [active]; decide)]
    · intro takes
      rw [if_pos away] at check
      have taken : u.takesReroute st h' k.port = takes := rfl
      refine ⟨fun no => givesUp _ ?_ rfl, fun yes full => givesUp _ ?_ rfl, fun yes room v hv => ?_⟩
      · rw [check, rerouteCheck_untaken (taken.trans no)]
      · rw [check, rerouteCheck_taken (taken.trans yes), if_neg (by rw [hasRoom_iff]; omega)]
      · rw [rerouteCheck_taken (taken.trans yes), if_pos ((hasRoom_iff _ _).mpr room)] at check
        rw [pickTrunk_reroutes hc hq check away, reroute_eq hq away, hv]

end Sys2Proof.Machine
end


section
/-!
PROOFS. The work decision, step by step (05 R88 to R92).
-/

namespace Sys2Proof.Machine

section Decision

variable {s u v w : State} {t : TrunkId} {c : Cls} {q : QEntry} {k : Ticket} {b : TicketBody}

theorem callIsDue_iff (t : TrunkId) (s : State) : s.callIsDue t = true ↔ (s.tparams t).learn ≠ 0 ∧
    ∀ m, (s.trunk t).lastCall = some m → m + (s.tparams t).callSpacing ≤ s.clock / 10 := by
  unfold State.callIsDue
  cases (s.trunk t).lastCall with
  | none => simp
  | some m =>
    simp only [Bool.and_eq_true, decide_eq_true_eq, Option.some.injEq, forall_eq']
    rfl

theorem mayDecide_iff (t : TrunkId) (s : State) : s.mayDecide t = true ↔
    (s.trunk t).listening = true ∧ (s.trunk t).txn = none ∧ s.link.restart = none := by
  simp [State.mayDecide, and_assoc]

/-! ### The passes -/

theorem workDecision_once (may : s.mayDecide t = true) (once : decideOnce t s = (u, false)) : workDecision t s = u := by
  rw [workDecision, if_pos may, decideWithin, once]

/-- A pass that asks for another, having left the egress empty: the decision is made again. -/
theorem workDecision_again (may : s.mayDecide t = true) (once : decideOnce t s = (u, true)) (mayAgain : u.mayDecide t = true)
    (empty : ∀ c, u.fifo (.trunk t) c = []) : workDecision t s = workDecision t u := by
  rw [workDecision, if_pos may, decideWithin, once, workDecision, if_pos mayAgain]
  exact (decideWithin_more empty (Nat.sub_le _ _)).symm

theorem burstOpen_of_some {n : Nat} (h : (s.trunk t).burst = some n) (less : n < (s.tparams t).deliveryBurst) :
    s.burstOpen t = true := by
  simp [State.burstOpen, h, less]

theorem burstOpen_of_spent (h : ∀ n, (s.trunk t).burst = some n → (s.tparams t).deliveryBurst ≤ n) : s.burstOpen t = false := by
  unfold State.burstOpen
  split
  · next n hn => exact decide_eq_false (Nat.not_lt.mpr (h n hn))
  · rfl

/-- Step 1: a delivery while the burst has a slot. -/
theorem decideOnce_delivers {p : Cls × QEntry} (opened : s.burstOpen t = true) (pick : pickTrunk t s = (v, some p)) :
    decideOnce t s = ((beginEntry t p v).modTrunk t fun r => { r with burst := r.burst.map (· + 1) }, false) := by
  simp only [decideOnce, opened, if_true, pick]

/-- Step 1 that delivers nothing. -/
theorem decideOnce_cycle
    (h : ((∀ n, (s.trunk t).burst = some n → (s.tparams t).deliveryBurst ≤ n) ∧ v = s) ∨
      ∃ n, (s.trunk t).burst = some n ∧ n < (s.tparams t).deliveryBurst ∧ pickTrunk t s = (v, none)) :
    decideOnce t s = decideCycle t v := by
  rcases h with ⟨spent, rfl⟩ | ⟨n, hn, less, pick⟩
  · simp only [decideOnce, burstOpen_of_spent spent, Bool.false_eq_true, if_false]
  · simp only [decideOnce, burstOpen_of_some hn less, if_true, pick]

/-! ### The steps -/

/-- The part of the ring above the pointer. -/
def State.restOfRing (v : State) (t : TrunkId) : List (Num × Station) :=
  (v.ring t).filter fun y => abovePointer (v.trunk t).pointer y.1

/-- Whether a call opens the cycle (05 R91). -/
def State.callOpens (v : State) (t : TrunkId) : Prop :=
  (v.trunk t).pointer = none ∧ (v.trunk t).callMade = false ∧ v.callIsDue t = true

theorem decideCycle_call (h : v.callOpens t) : decideCycle t v = (beginCall t v, false) := if_pos h

theorem decideCycle_poll {m : Nat} {n : Num} (h : ¬v.callOpens t)
    (found : searchRing v (v.trunk t).cycle (v.restOfRing t) = (m, some n)) : decideCycle t v = (beginPoll t m n v, false) := by
  unfold State.restOfRing at found
  rw [decideCycle, found]
  exact if_neg h

theorem decideCycle_ends {m : Nat} (h : ¬v.callOpens t)
    (found : searchRing v (v.trunk t).cycle (v.restOfRing t) = (m, none)) :
    decideCycle t v = decideFromStart t (endCycle t m v) := by
  unfold State.restOfRing at found
  rw [decideCycle, found]
  exact if_neg h

theorem decideFromStart_call (due : v.callIsDue t = true) : decideFromStart t v = (beginCall t v, false) := if_pos due

theorem decideFromStart_poll {m : Nat} {n : Num} (due : ¬v.callIsDue t = true)
    (found : searchRing v (v.trunk t).cycle (v.ring t) = (m, some n)) : decideFromStart t v = (beginPoll t m n v, false) := by
  rw [decideFromStart, found]
  exact if_neg due

theorem decideFromStart_last {m : Nat} (due : ¬v.callIsDue t = true)
    (found : searchRing v (v.trunk t).cycle (v.ring t) = (m, none)) : decideFromStart t v = decideLast t v := by
  rw [decideFromStart, found]
  exact if_neg due

theorem decideLast_delivers {p : Cls × QEntry} (pick : pickTrunk t v = (w, some p)) :
    decideLast t v = (beginEntry t p w, false) := by
  rw [decideLast, pick]

theorem decideLast_none (pick : pickTrunk t v = (w, none)) :
    decideLast t v = if w.silentWaits t then (w, true) else (goIdle t w, false) := by
  rw [decideLast, pick]

theorem silentWaits_iff (w : State) (t : TrunkId) :
    w.silentWaits t = true ↔ ∃ y ∈ w.ring t, y.2.state = .silent ∧ ¬w.capOf y.2 ≤ y.2.held := by
  simp [State.silentWaits, State.belowCap]

/-! ### What begins -/

theorem beginPoll_eq (m : Nat) (n : Num) : beginPoll t m n v = v.modTrunk t fun k =>
    { k with
      activity := .polling, txn := some ⟨.poll n, .waiting, false, none, none⟩, timer := none, pointer := some n
      counters := { k.counters with withheld := countUpBy k.counters.withheld m } } := by
  rw [beginPoll, beginTxn, countWithheld, countTrunk, State.modTrunk_modTrunk, State.modTrunk_modTrunk]

theorem endCycle_eq (m : Nat) : endCycle t m v = v.modTrunk t fun k =>
    { k with
      cycle := k.cycle + 1, pointer := none, callMade := false
      counters := { k.counters with withheld := countUpBy k.counters.withheld m } } := by
  rw [endCycle, countWithheld, countTrunk, State.modTrunk_modTrunk]

theorem beginEntry_deliver (hf : q.form = some .deliver) (hs : w.stored q.ticket = some (k, b)) :
    beginEntry t (c, q) w = w.modTrunk t fun r =>
      { r with
        activity := .delivering, txn := some ⟨.deliver b.dest c q.ticket q.attempts, .waiting, false, none, none⟩
        timer := none } := by
  rw [beginEntry, if_pos hf, hs]
  rfl

theorem beginEntry_spread (hf : q.form ≠ some .deliver) :
    beginEntry t (c, q) w = w.modTrunk t fun r =>
      { r with activity := .spreading, txn := some ⟨.bcast c q.ticket, .waiting, false, none, none⟩, timer := none } := by
  rw [beginEntry, if_neg hf]
  rfl

/-- The end of a cycle leaves the ring, the caps and the spacing of calls. -/
theorem endCycle_cycle (m : Nat) : ((endCycle t m v).trunk t).cycle = (v.trunk t).cycle + 1 := by
  rw [endCycle_eq, State.modTrunk_trunk_self]

theorem endCycle_callIsDue (m : Nat) : (endCycle t m v).callIsDue t = v.callIsDue t := by
  rw [endCycle_eq, State.callIsDue, State.modTrunk_trunk_self]
  rfl

theorem mayDecide_of_services (h : Services s u) (doing : (u.trunk t).doing = (s.trunk t).doing) : u.mayDecide t = s.mayDecide t := by
  have txn : (u.trunk t).txn = (s.trunk t).txn := congrArg Prod.snd doing
  rw [State.mayDecide, h.listening, txn, h.restart, State.mayDecide]

/-- A pass that only picks and ends a cycle leaves the controller as free to decide. -/
theorem mayDecide_pick {o : Option (Cls × QEntry)} (pick : pickTrunk t s = (u, o)) : u.mayDecide t = s.mayDecide t := by
  have services := pickTrunk_services s t
  have doing := pickTrunk_doing (s := s) t t
  rw [pick] at services doing
  exact mayDecide_of_services services doing

theorem mayDecide_endCycle (m : Nat) : (endCycle t m v).mayDecide t = v.mayDecide t := by
  rw [endCycle_eq, State.mayDecide, State.modTrunk_trunk_self]
  rfl

theorem servedIn_eq (c : Fin 8) :
    (fun y : Num × Station => decide (y.2.state = .active ∨ c = 0)) = fun y => y.2.servedIn c := by
  funext y
  exact Bool.decide_or _ _

end Decision

/-- Settles O45: each outcome of a decision is that of one pass through its steps; a pass that asks for another leaves an empty egress. -/
theorem workDecisions : Obligations.WorkDecisions := by
  refine ⟨callIsDue_iff, fun s st home pass => ⟨fun cap hk => ?_, fun hk => ?_, fun h seen due hk => ?_⟩, fun t s => ⟨fun h => ?_,
    fun listening txn restart => ?_⟩⟩
  · rw [State.capOf, hk]
    rfl
  · rw [State.capOf, hk]
    rfl
  · rw [State.capOf, hk]
    rfl
  · refine workDecision_idle ?_
    rw [Bool.eq_false_iff, Ne, mayDecide_iff]
    rintro ⟨listening, txn, restart⟩
    rcases h with h | h | h
    · rw [h] at listening
      cases listening
    · exact h txn
    · exact h restart
  · intro ring served calls polls delivers spreads used
    have may : s.mayDecide t = true := (mayDecide_iff t s).mpr ⟨listening, txn, restart⟩
    have entered : ∀ (w : State) c q,
        (∀ k b, q.form = some .deliver → w.stored q.ticket = some (k, b) → beginEntry t (c, q) w = delivers w b.dest c q) ∧
        (q.form ≠ some .deliver → beginEntry t (c, q) w = spreads w c q) := fun w c q =>
      ⟨fun k b => beginEntry_deliver, beginEntry_spread⟩
    refine ⟨fun n v c q hb less pick => ?_, fun v hv => ?_⟩
    · have decided := workDecision_once may (decideOnce_delivers (burstOpen_of_some hb less) pick)
      exact ⟨fun k b hf hs => decided.trans (congrArg used ((entered v c q).1 k b hf hs)),
        fun hf => decided.trans (congrArg used ((entered v c q).2 hf))⟩
    · intro cycle full rest due opens
      have once := decideOnce_cycle hv
      have vmay : v.mayDecide t = true := by
        rcases hv with ⟨-, rfl⟩ | ⟨n, -, -, pick⟩
        · exact may
        · exact (mayDecide_pick pick).trans may
      have serves : ∀ c, served c = fun y => y.2.servedIn c := servedIn_eq
      refine ⟨fun h => workDecision_once may (once.trans (decideCycle_call h)), fun before n st after h split full_before here below => ?_,
        fun h all_full e he => ?_⟩
      · rw [serves] at full_before here ⊢
        have found := searchRing_found (s := v) (n := n) (after := after) full_before here below
        rw [← split] at found
        exact (workDecision_once may (once.trans (decideCycle_poll h found))).trans (beginPoll_eq _ _)
      · rw [serves] at all_full he
        have ended : e = endCycle t (rest.filter fun y => y.2.servedIn cycle).length v := he.trans (endCycle_eq _).symm
        have passed : decideOnce t s = decideFromStart t e := by
          rw [ended]
          exact once.trans (decideCycle_ends h (searchRing_none (s := v) all_full))
        have ecycle : (e.trunk t).cycle = cycle + 1 := by rw [ended, endCycle_cycle]
        have edue : e.callIsDue t = v.callIsDue t := by rw [ended, endCycle_callIsDue]
        have ering : e.ring t = ring v := by rw [he]; rfl
        have ecap : e.capOf = v.capOf := by rw [he]; rfl
        have emay : e.mayDecide t = true := by rw [ended, mayDecide_endCycle]; exact vmay
        refine ⟨fun hd => workDecision_once may (passed.trans (decideFromStart_call (edue.trans hd))),
          fun before n st after hd split full_before here below => ?_, fun hd none_left => ?_⟩
        · rw [serves] at full_before here ⊢
          have found := searchRing_found (s := e) (n := n) (after := after) (by rw [ecap]; exact full_before) here (by rw [ecap]; exact below)
          rw [← split, ← ering, ← ecycle] at found
          have no_call : ¬e.callIsDue t = true := fun h => hd (edue.symm.trans h)
          have polled := (workDecision_once may (passed.trans (decideFromStart_poll no_call found))).trans (beginPoll_eq _ _)
          rw [ecycle] at polled
          exact polled
        · rw [serves, ← ecycle, ← ering] at none_left
          have last : decideOnce t s = decideLast t e := by
            refine passed.trans (decideFromStart_last (fun h => hd (edue.symm.trans h)) (searchRing_none (s := e) ?_))
            rw [ecap]
            exact none_left
          refine ⟨fun w c q pick => ?_, fun w pick => ⟨fun waits => ?_, fun none_waits => ?_⟩⟩
          · have decided := workDecision_once may (last.trans (decideLast_delivers pick))
            exact ⟨fun k b hf hs => decided.trans ((entered w c q).1 k b hf hs), fun hf => decided.trans ((entered w c q).2 hf)⟩
          · have waiting : w.silentWaits t = true := (silentWaits_iff w t).mpr waits
            exact workDecision_again may (last.trans ((decideLast_none pick).trans (if_pos waiting)))
              ((mayDecide_pick pick).trans emay) (pickTrunk_none pick)
          · have idle : ¬w.silentWaits t = true := fun h => by
              obtain ⟨y, hy, silent, below⟩ := (silentWaits_iff w t).mp h
              exact below (none_waits y hy silent)
            exact workDecision_once may (last.trans ((decideLast_none pick).trans (if_neg idle)))

end Sys2Proof.Machine
end


section
/-!
PROOFS. The lines' bytes: known characters, and the round trips of the host link and of a trunk (04 R60 to R72, 08 R147 to R149).
-/

namespace Sys2Proof.Machine

/-! ### Known characters -/

theorem numBytes_length (n : BitVec 16) : (numBytes n).length = 2 := rfl

theorem Frame.chars_length (f : Frame) : f.chars.length = 7 + f.body.length := by
  simp only [Frame.chars, List.length_append, List.length_cons, numBytes_length, List.length_nil]
  omega

theorem Message.chars_length (m : Message) : m.chars.length = 7 + m.body.length := by
  simp only [Message.chars, bytes16, List.length_append, List.length_cons, numBytes_length]
  omega

theorem isStationNumber_iff (n : Num) : isStationNumber n = true ↔ 0x0001 ≤ n.toNat ∧ n.toNat ≤ 0xFEFF := by
  simp [isStationNumber, BitVec.le_def]

theorem isGroupNumber_iff (n : Num) : isGroupNumber n = true ↔ 0xFF00 ≤ n.toNat ∧ n.toNat ≤ 0xFFFE := by
  simp [isGroupNumber, BitVec.le_def]

theorem trunkOut_driverEnabled (s : State) (t : TrunkId) :
    ((s.trunk t).tx = none → s.trunkOut t = [] ∧ s.driverEnabled t = false) ∧
      (∀ f, (s.trunk t).tx = some f → s.trunkOut t = f.bits ∧ s.driverEnabled t = true) := by
  unfold State.trunkOut State.driverEnabled
  refine ⟨fun h => ?_, fun f h => ?_⟩
  · rw [h]
    exact ⟨rfl, rfl⟩
  · rw [h]
    exact ⟨rfl, rfl⟩

theorem hostOut_eq {s : State} {m : Message}
    (h : s.link.tx = .reply m ∨ s.link.tx = .notice m ∨ ∃ c, s.link.tx = .telegram m c) : s.hostOut = m.bits := by
  unfold State.hostOut
  rcases h with h | h | ⟨c, h⟩ <;> rw [h] <;> rfl

theorem hostRate_eq (s : State) : s.hostRate = if s.straps.hrate1 then (if s.straps.hrate0 then 2000000 else 921600)
    else if s.straps.hrate0 then 460800 else 115200 := by
  unfold State.hostRate
  cases s.straps.hrate1 <;> cases s.straps.hrate0 <;> rfl

theorem charTime_eq (s : State) (t : TrunkId) : s.charTime t = 10000000 / ((s.trunk t).bitRate : ℚ) := by
  unfold State.charTime charTime
  norm_num

/-- Settles O52: the layouts read off their definitions, the check of the known string evaluated. -/
theorem knownCharacters : Obligations.KnownCharacters := by
  refine ⟨charBits_eq, fun f => ⟨rfl, ?_⟩, fun m => ⟨rfl, ?_⟩, fun s t => ?_, fun s => ⟨fun h => ?_, fun m => hostOut_eq, hostRate_eq s⟩,
    by decide +kernel, fun _ => rfl, by decide, by decide, by decide, fun n => ⟨isStationNumber_iff n, isGroupNumber_iff n⟩,
    by decide, by decide⟩
  · rw [Frame.bits, lineBits_length, Frame.chars_length]
  · rw [Message.bits, lineBits_length, Message.chars_length]
  · obtain ⟨free, busy⟩ := trunkOut_driverEnabled s t
    exact ⟨free, busy, charTime_eq s t⟩
  · rw [State.hostOut, h]
    rfl

/-! ### Reading back what was written -/

theorem numOfBytes_numBytes (n : BitVec 16) : numOfBytes (n.extractLsb' 8 8) (n.extractLsb' 0 8) = n := by
  refine BitVec.eq_of_toNat_eq ?_
  simp only [numOfBytes, BitVec.toNat_append, BitVec.extractLsb'_toNat, Nat.shiftRight_eq_div_pow]
  have := n.isLt
  rw [← Nat.shiftLeft_add_eq_or_of_lt (by omega), Nat.shiftLeft_eq]
  omega

theorem asMessage_fits {c : Instr} {kind seq : Byte} {body : List Byte} (h : c.asMessage = some (kind, seq, body))
    (fits : c.wellFormed = true) : body.length ≤ 256 := by
  have plain : bodyFits body = true → body.length ≤ 256 := of_decide_eq_true
  cases c
  case hello | set | get | trunk | pin | group | forget | lookup | walk | send | stats | flush | restart | credit | noted =>
    cases h
    exact plain fits
  case unknownKindRequest =>
    cases h
    simp only [Instr.wellFormed, Bool.and_eq_true] at fits
    exact plain fits.1.1
  all_goals cases h

/-- The message a command stands for names that command. -/
theorem hostCommand_asMessage {c : Instr} {kind seq : Byte} {body : List Byte} (h : c.asMessage = some (kind, seq, body))
    (fits : c.wellFormed = true) : hostCommand kind seq body = c := by
  cases c
  case hello q b => exact Laws.MessageCode.hello q b kind seq body h fits
  case set q b => exact Laws.MessageCode.set q b kind seq body h fits
  case get q b => exact Laws.MessageCode.get q b kind seq body h fits
  case trunk q b => exact Laws.MessageCode.trunk q b kind seq body h fits
  case pin q b => exact Laws.MessageCode.pin q b kind seq body h fits
  case group q b => exact Laws.MessageCode.group q b kind seq body h fits
  case forget q b => exact Laws.MessageCode.forget q b kind seq body h fits
  case lookup q b => exact Laws.MessageCode.lookup q b kind seq body h fits
  case walk q b => exact Laws.MessageCode.walk q b kind seq body h fits
  case send q b => exact Laws.MessageCode.send q b kind seq body h fits
  case stats q b => exact Laws.MessageCode.stats q b kind seq body h fits
  case flush q b => exact Laws.MessageCode.flush q b kind seq body h fits
  case restart q b => exact Laws.MessageCode.restart q b kind seq body h fits
  case unknownKindRequest k q b => exact Laws.MessageCode.unknownKindRequest k q b kind seq body h fits
  case credit q b => exact Laws.MessageCode.credit q b kind seq body h fits
  case noted q b => exact Laws.MessageCode.noted q b kind seq body h fits
  all_goals cases h

/-- The characters of a message whose body the length field holds, whatever follows them. -/
theorem decodeHost_chars (kind seq : Byte) {body : List Byte} (fits : body.length ≤ 256) (rest : List Byte) :
    decodeHost ((Message.mk kind seq body).chars ++ rest) =
      some (headerCommands (BitVec.ofNat 16 (body.length + 2)) kind ++ [hostCommand kind seq body], rest) := by
  have length : (BitVec.ofNat 16 (body.length + 2)).toNat = body.length + 2 := by
    rw [BitVec.toNat_ofNat]
    exact Nat.mod_eq_of_lt (by omega)
  have chars : (Message.mk kind seq body).chars ++ rest =
      0xA5 :: (BitVec.ofNat 16 (body.length + 2)).extractLsb' 8 8 :: (BitVec.ofNat 16 (body.length + 2)).extractLsb' 0 8 ::
        kind :: seq :: (body ++ (numBytes (messageCheck kind seq body) ++ rest)) := by
    simp [Message.chars, bytes16, numBytes]
  have enough : ¬(body ++ (numBytes (messageCheck kind seq body) ++ rest)).length < body.length + 2 := by
    simp only [List.length_append, numBytes_length]
    omega
  have text : (body ++ (numBytes (messageCheck kind seq body) ++ rest)).take body.length = body := List.take_left
  have check : ((body ++ (numBytes (messageCheck kind seq body) ++ rest)).drop body.length).take 2 =
      numBytes (messageCheck kind seq body) := by
    rw [List.drop_left]
    rfl
  have after : (body ++ (numBytes (messageCheck kind seq body) ++ rest)).drop (body.length + 2) = rest := by
    rw [← List.drop_drop, List.drop_left]
    rfl
  rw [chars]
  simp only [decodeHost, if_true, numOfBytes_numBytes, length]
  rw [if_pos (by omega)]
  simp only [collectMessage, length, if_neg enough, Nat.add_sub_cancel, text, check, after, judgeMessage, if_true]

/-- Settles O53: a valid message's characters are read as its header point and the command its kind names. -/
theorem hostMessageRoundTrip : Obligations.HostMessageRoundTrip := by
  intro c kind seq body rest h fits read
  have decoded : decodeHost ((Message.mk kind seq body).chars ++ rest) = read := by
    rw [decodeHost_chars kind seq (asMessage_fits h fits), hostCommand_asMessage h fits]
    rfl
  exact ⟨decoded, (decodeHostBits_bits _ rest).trans decoded⟩

/-! ### A station's frame -/

/-- The characters of a frame whose body a trunk can carry are its start, its header and the command its body makes. -/
theorem decodeFrame_chars (t : TrunkId) {f : Frame} (fits : f.body.length ≤ 243) : decodeFrame t f.chars =
    [.frameStart t, .dataHeader t ⟨0xC3, f.station, controlByte f.resync f.mark f.kind, byteOf f.body.length⟩,
      (goodFrame t f.station (controlByte f.resync f.mark f.kind) f.body).getD (.failedFrame t)] := by
  have length : (byteOf f.body.length).toNat = f.body.length := by
    rw [byteOf, BitVec.toNat_ofNat]
    exact Nat.mod_eq_of_lt (by omega)
  let check := numBytes (crc16 ([f.station.extractLsb' 8 8, f.station.extractLsb' 0 8, controlByte f.resync f.mark f.kind,
    byteOf f.body.length] ++ f.body))
  have chars : f.chars = 0xC3 :: f.station.extractLsb' 8 8 :: f.station.extractLsb' 0 8 :: controlByte f.resync f.mark f.kind ::
      byteOf f.body.length :: (f.body ++ check) := rfl
  have whole : f.body.length + 2 ≤ (f.body ++ check).length := by
    rw [List.length_append, numBytes_length]
  have after : (f.body ++ check).drop (f.body.length + 2) = [] := List.drop_eq_nil_of_le (by
    rw [List.length_append, numBytes_length])
  rw [chars]
  simp only [decodeFrame, length, numOfBytes_numBytes]
  rw [if_pos ⟨trivial, fits, whole⟩, List.take_left, List.drop_left, after, show check.take 2 = check from rfl, judgeFrame, if_pos rfl,
    numOfBytes_numBytes]
  rfl

/-- A control byte holds its kind's code, its mark and its resync flag. -/
theorem controlByte_fields (resync mark : Bool) (k : FrameKind) : controlByte resync mark k &&& 0xCF = k.code ∧
    (controlByte resync mark k).getLsbD 4 = mark ∧ (controlByte resync mark k).getLsbD 5 = resync := by
  revert resync mark
  cases k <;> decide

/-- The commands that the bodies of the five good frames make. -/
theorem goodFrame_stationFrames (t : TrunkId) (h : StationHead) (dest : Num) (cls profile : Byte) {data : List Byte}
    (fits : data.length ≤ 240) :
    let made := fun k body => goodFrame t h.station (controlByte h.resync h.mark k) body
    made .data (numBytes dest ++ cls :: data) = some (.dataFrame t h dest cls data) ∧ made .nil [] = some (.nilFrame t h) ∧
      made .ack [] = some (.ackFrame t h) ∧ made .busy [] = some (.busyFrame t h) ∧
      made .join [profile] = some (.joinFrame t h profile) := by
  intro made
  have fields := controlByte_fields h.resync h.mark
  refine ⟨?_, ?_, ?_, ?_, ?_⟩
  · have read := numOfBytes_numBytes dest
    simp only [made, goodFrame, fields, FrameKind.code, if_true, numBytes, List.cons_append, List.nil_append, read]
    exact if_pos fits
  all_goals
    simp only [made, goodFrame, fields, FrameKind.code]
    rfl

/-- Settles O54: each good station frame's body makes its own command. -/
theorem stationFrameRoundTrip : Obligations.StationFrameRoundTrip := by
  intro t h dest cls profile data fits reads
  have read : ∀ k body c, body.length ≤ 243 → goodFrame t h.station (controlByte h.resync h.mark k) body = some c → reads k body c := by
    intro k body c short good
    have decoded := decodeFrame_chars t (f := ⟨h.station, k, h.mark, h.resync, body⟩) short
    rw [good] at decoded
    exact ⟨decoded, (decodeFrameBits_bits t _).trans (congrArg some decoded)⟩
  obtain ⟨data_made, nil_made, ack_made, busy_made, join_made⟩ := goodFrame_stationFrames t h dest cls profile fits
  refine ⟨read _ _ _ ?_ data_made, read _ _ _ (Nat.zero_le _) nil_made, read _ _ _ (Nat.zero_le _) ack_made,
    read _ _ _ (Nat.zero_le _) busy_made, read _ _ _ (Nat.le_of_ble_eq_true rfl) join_made⟩
  simp only [List.length_append, numBytes_length, List.length_cons]
  omega

end Sys2Proof.Machine
end
